-- ==== Sys2Proof/Word.lean ====
section
/-! DEFINITION. The word types of the block (00_scope.md R7): bytes, 16-bit values, floating data. -/

namespace Sys2Proof

/-- A byte, an unsigned integer 0 to 255 (R7). -/
abbrev Byte := BitVec 8

/-- A `u16` (R7): a CRC, a table entry, a scale. -/
abbrev Half := BitVec 16

/-- A datum of the floating format FMT, IEEE 754 binary64 as its 64 bits (R5, 92 D2; log 2). -/
abbrev F64 := BitVec 64

/-- `+0.0`, the reset value of every FMT register (R27). -/
def F64.zero : F64 := 0

end Sys2Proof
end

