-- ==== Sys2Proof/Config.lean ====
section
/-! DEFINITION. The parameters of the block with the value this hardware takes (00_scope.md R5), and
the values the spec leaves free (93_implementation_defined.md U5, U6). -/

namespace Sys2Proof

/-- The parameter `CMD_MATCH` (R71, 93 U8): whether bytes after the matched ones are ignored. -/
inductive CmdMatch where
  | byPrefix
  | exact
  deriving DecidableEq, Repr

namespace Config

/-- The start marker (R5, R60). -/
def startMarker : Byte := 0x02

/-- The end marker (R5, R60). -/
def endMarker : Byte := 0x03

/-- The longest payload a frame can carry, `PAYLOAD_MAX` (R5, R61). -/
def payloadMax : Nat := 255

/-- The number of bytes of `rx_buf` (R18, R40). -/
def rxBufSize : Nat := 258

/-- `CMD_MATCH` of this hardware. DESIGN CHOICE among the two the spec leaves open: the value R71 uses (log 5). -/
def cmdMatch : CmdMatch := .byPrefix

/-- `FI_PRESENT` of this hardware: fault injection is absent (R5, R23, R151; log 6). -/
def fiPresent : Bool := false

/-- `FX_NAN_CODE`, the integer encoded for a NaN (R5, R107; log 4). -/
def fxNanCode : Int := 0

/-- Free value (93 U6): whether the fault-injectable reply of draw `n` is hit (R151; log 6). -/
opaque fiInject : Nat → Bool

/-- Free value (93 U6): the CRC substituted at draw `n` (R151; log 6). -/
opaque fiCrc : Nat → Half

/-- Free value (93 U5): what a payload latch holds after the `n`-th link failure (log 15). -/
opaque freePayload : Nat → List Byte

/-- Free value (93 U5): what `tx_fi` holds after the `n`-th link failure (log 15). -/
opaque freeBit : Nat → Bool

end Config

end Sys2Proof
end

