-- ==== Sys2Proof/Syntax.lean ====
section
/-! DEFINITION. The operations of the block as data: one constructor of `Instr` per row of
opcode_table.json, and the two places an operation is read from (a wire payload, the local port). -/

namespace Sys2Proof

/-- The value operand of `SETT` and `SETP` (R13): a `u8` or an FMT datum. -/
inductive FieldVal where
  | u8 (b : Byte)
  | fmt (v : F64)
  deriving DecidableEq, Repr

/-- One request on the local port (R75): the operation select `op[3:0]` and one line per kind of
operand; an operation reads the lines of its row and no other. That the operands travel on
parallel lines is a DESIGN CHOICE (log 9). -/
structure PortWord where
  /-- the operation select -/
  op : BitVec 4
  /-- the byte-sequence operand `s` or `p` -/
  bytes : List Byte
  /-- the FMT operand `v` of the encoders -/
  v : F64
  /-- the scale operand `s` of the encoders, a `u16` (R108) -/
  scale : Half
  /-- the register index `i` of `SETT` and `SETP` -/
  index : Nat
  /-- the value operand of `SETT` and `SETP` -/
  value : FieldVal
  deriving DecidableEq, Repr

/-- A port request with operation select `op` and every operand line zero. -/
def PortWord.ofOp (op : BitVec 4) : PortWord :=
  { op := op, bytes := [], v := F64.zero, scale := 0, index := 0, value := .u8 0 }

/-- What is decoded: the payload of a validated inbound frame (R66), or a word on the local port. -/
inductive Code where
  | wire (p : List Byte)
  | port (w : PortWord)
  deriving DecidableEq, Repr

/-- The operations, one per row of opcode_table.json. The operand `tail` of a known wire command is
the payload after the matched bytes, which no effect uses (R71). -/
inductive Instr where
  /-- `GETVALUES`, R172 -/
  | getvalues (tail : List Byte)
  /-- `POLL`, R173 -/
  | poll (tail : List Byte)
  /-- `CHGSTATE`, R174 -/
  | chgstate (tail : List Byte)
  /-- `LCMDEBUG`, R175 -/
  | lcmdebug (tail : List Byte)
  /-- `UNKNOWN`, R176, with the whole payload -/
  | unknown (p : List Byte)
  /-- `CRC16 s`, R94 -/
  | crc16 (s : List Byte)
  /-- `ENCFX8 v, s`, R103 -/
  | encfx8 (v : F64) (scale : Half)
  /-- `ENCFX16 v, s`, R104 -/
  | encfx16 (v : F64) (scale : Half)
  /-- `ENCFX32 v, s`, R105 -/
  | encfx32 (v : F64) (scale : Half)
  /-- `ENCTELEM`, R122 -/
  | enctelem
  /-- `ENCPOLL`, R125 -/
  | encpoll
  /-- `REFRAME p`, R149 -/
  | reframe (p : List Byte)
  /-- `DEFRAME s`, R142 -/
  | deframe (s : List Byte)
  /-- `SETT i, v`, R13 -/
  | sett (i : Nat) (v : FieldVal)
  /-- `SETP i, v`, R13 -/
  | setp (i : Nat) (v : FieldVal)
  /-- `SETSTOP`, R178 -/
  | setstop
  deriving DecidableEq, Repr

end Sys2Proof
end

