-- ==== Sys2Proof/WellFormed.lean ====
section
/-! DEFINITION. The contract of each operation's operands: lengths, index ranges and types, scales
(R13, R61, R108, R150), and which payloads are `UNKNOWN` (R71). -/

namespace Sys2Proof

/-- The three bytes of `POLL`, `CHGSTATE` and `LCMDEBUG` (R70). -/
def appCommands : List (List Byte) := [[0x24, 0x65, 0x18], [0x24, 0x65, 0x1C], [0x24, 0x65, 0x63]]

/-- Whether a payload is one of the four known commands (R71). -/
def isKnownCommand : CmdMatch → List Byte → Bool
  | .byPrefix, p => p.take 1 == [0x04] || appCommands.contains (p.take 3)
  | .exact, p => p == [0x04] || appCommands.contains p

/-- Whether bytes may follow the matched ones of a known command (R71). -/
def tailAllowed : CmdMatch → List Byte → Bool
  | .byPrefix, _ => true
  | .exact, tail => tail.isEmpty

/-- The telemetry registers of type `u8` are `T[0]` and `T[16]`, the others are FMT (R11). -/
def telemValueFits : Nat → FieldVal → Bool
  | i, .u8 _ => i == 0 || i == 16
  | i, .fmt _ => decide (1 ≤ i ∧ i ≤ 15)

/-- The poll registers of type FMT are `P[5]` to `P[8]`, the others are `u8` (R12). -/
def pollValueFits : Nat → FieldVal → Bool
  | i, .u8 _ => decide (i ≤ 4 ∨ 9 ≤ i ∧ i ≤ 11)
  | i, .fmt _ => decide (5 ≤ i ∧ i ≤ 8)

/-- Well-formedness under a given `CMD_MATCH`. -/
def Instr.wellFormedWith (m : CmdMatch) : Instr → Bool
  | .getvalues tail => tailAllowed m tail && decide (tail.length + 1 ≤ Config.payloadMax)
  | .poll tail | .chgstate tail | .lcmdebug tail =>
    tailAllowed m tail && decide (tail.length + 3 ≤ Config.payloadMax)
  | .unknown p => !isKnownCommand m p && decide (p.length ≤ Config.payloadMax)
  | .crc16 _ | .deframe _ | .enctelem | .encpoll | .setstop => true
  | .encfx8 _ s | .encfx16 _ s | .encfx32 _ s => s != 0
  | .reframe p => decide (p.length ≤ Config.payloadMax)
  | .sett i v => telemValueFits i v
  | .setp i v => pollValueFits i v

/-- Whether an operation's operands meet its contract on this hardware. -/
def Instr.wellFormed (i : Instr) : Bool := i.wellFormedWith Config.cmdMatch

end Sys2Proof
end

