-- ==== Sys2Proof/Decode.lean ====
section
/-! DEFINITION. Decoding and encoding: the command map of the wire (30_encoding.md R70 to R73) and the
operation select of the local port (R75, R76). -/

namespace Sys2Proof

/-- Why a word is not decoded: a reserved operation select, `refuse(bad_op)` (R76). -/
inductive DecodeError where
  | badOp (op : BitVec 4)
  deriving DecidableEq, Repr

/-- The rows of the command table with prefix matching (R71). -/
def classifyByPrefix : List Byte → Instr
  | 0x04#8 :: tail => .getvalues tail
  | 0x24#8 :: 0x65#8 :: 0x18#8 :: tail => .poll tail
  | 0x24#8 :: 0x65#8 :: 0x1C#8 :: tail => .chgstate tail
  | 0x24#8 :: 0x65#8 :: 0x63#8 :: tail => .lcmdebug tail
  | p => .unknown p

/-- The rows of the command table with exact matching (R71, parameter `CMD_MATCH = exact`). -/
def classifyExact (p : List Byte) : Instr :=
  match p with
  | [0x04#8] => .getvalues []
  | [0x24#8, 0x65#8, 0x18#8] => .poll []
  | [0x24#8, 0x65#8, 0x1C#8] => .chgstate []
  | [0x24#8, 0x65#8, 0x63#8] => .lcmdebug []
  | _ => .unknown p

/-- The classification of a payload under a given `CMD_MATCH` (R71). -/
def classifyWith : CmdMatch → List Byte → Instr
  | .byPrefix, p => classifyByPrefix p
  | .exact, p => classifyExact p

/-- The classification of a validated payload on this hardware (R71, R180): total, no payload is
illegal (R73). -/
def classify (p : List Byte) : Instr := classifyWith Config.cmdMatch p

/-- The operation select of the local port (R75); `0x0` and `0xC` to `0xF` are reserved (R76). -/
def decodePort (w : PortWord) : Except DecodeError Instr :=
  match w.op with
  | 0x1#4 => .ok (.crc16 w.bytes)
  | 0x2#4 => .ok (.encfx8 w.v w.scale)
  | 0x3#4 => .ok (.encfx16 w.v w.scale)
  | 0x4#4 => .ok (.encfx32 w.v w.scale)
  | 0x5#4 => .ok .enctelem
  | 0x6#4 => .ok .encpoll
  | 0x7#4 => .ok (.reframe w.bytes)
  | 0x8#4 => .ok (.deframe w.bytes)
  | 0x9#4 => .ok (.sett w.index w.value)
  | 0xA#4 => .ok (.setp w.index w.value)
  | 0xB#4 => .ok .setstop
  | op => .error (.badOp op)

/-- Decoding of either kind of word. -/
def decode : Code → Except DecodeError Instr
  | .wire p => .ok (classify p)
  | .port w => decodePort w

/-- The word of an operation: the payload of a wire command, or the port word with the operand lines
its row does not use at zero. -/
def encode : Instr → Code
  | .getvalues tail => .wire (0x04 :: tail)
  | .poll tail => .wire (0x24 :: 0x65 :: 0x18 :: tail)
  | .chgstate tail => .wire (0x24 :: 0x65 :: 0x1C :: tail)
  | .lcmdebug tail => .wire (0x24 :: 0x65 :: 0x63 :: tail)
  | .unknown p => .wire p
  | .crc16 s => .port { PortWord.ofOp 0x1 with bytes := s }
  | .encfx8 v s => .port { PortWord.ofOp 0x2 with v := v, scale := s }
  | .encfx16 v s => .port { PortWord.ofOp 0x3 with v := v, scale := s }
  | .encfx32 v s => .port { PortWord.ofOp 0x4 with v := v, scale := s }
  | .enctelem => .port (PortWord.ofOp 0x5)
  | .encpoll => .port (PortWord.ofOp 0x6)
  | .reframe p => .port { PortWord.ofOp 0x7 with bytes := p }
  | .deframe s => .port { PortWord.ofOp 0x8 with bytes := s }
  | .sett i v => .port { PortWord.ofOp 0x9 with index := i, value := v }
  | .setp i v => .port { PortWord.ofOp 0xA with index := i, value := v }
  | .setstop => .port (PortWord.ofOp 0xB)

/-- The low `n` bytes of a table word `W`, most significant first: R72 numbers a wire row
`W = (p[0] << 16) | (p[1] << 8) | p[2]`. -/
def tableBytes (w : Nat) : Nat → List Byte
  | 0 => []
  | n + 1 => BitVec.ofNat 8 (w >>> (8 * n)) :: tableBytes w n

/-- What opcode_table.json's bits stand for: a row of format `OP` is the low four bits of one byte,
with operand lines of zeros; a wire row is a payload; the row `UNKNOWN`, whose match and mask are
zero, is any word of zeros (log 20). -/
def tableCode (nbits w : Nat) : Code :=
  if nbits ≤ 8 ∧ w ≠ 0 then .port (PortWord.ofOp (BitVec.ofNat 4 w))
  else .wire (tableBytes w (nbits / 8))

/-- The instruction the decoder reads from the table's bits `w`, `none` where it refuses. -/
def decodeTableWord (nbits w : Nat) : Option Instr := (decode (tableCode nbits w)).toOption

end Sys2Proof
end

