-- ==== Sys2Proof/Machine/State.lean ====
section
/-! DEFINITION. The state of the block (10_state.md R10), the model's own fields beside it, the reasons a
step can stop, and the reset state (R27). -/

namespace Sys2Proof.Machine

/-- The telemetry record `T` (R11), 17 registers in index order. -/
structure Telem where
  /-- `T[0]` -/
  id : Byte
  /-- `T[1]` -/
  tempFet : F64
  /-- `T[2]` -/
  tempMotor : F64
  /-- `T[3]` -/
  avgMotorCurrent : F64
  /-- `T[4]` -/
  avgInputCurrent : F64
  /-- `T[5]` -/
  avgId : F64
  /-- `T[6]` -/
  avgIq : F64
  /-- `T[7]` -/
  dutyCycleNow : F64
  /-- `T[8]` -/
  rpm : F64
  /-- `T[9]` -/
  voltageFiltered : F64
  /-- `T[10]` -/
  ampHours : F64
  /-- `T[11]` -/
  ampHoursCharged : F64
  /-- `T[12]` -/
  wattHours : F64
  /-- `T[13]` -/
  wattHoursCharged : F64
  /-- `T[14]` -/
  tachometer : F64
  /-- `T[15]` -/
  tachometerAbs : F64
  /-- `T[16]`, never serialized (90 C3) -/
  faultCode : Byte
  deriving DecidableEq, Repr

/-- The poll record `P` (R12), 12 registers in index order. -/
structure Poll where
  /-- `P[0]` -/
  id : Byte
  /-- `P[1]` -/
  floatpkg : Byte
  /-- `P[2]` -/
  floatcmd : Byte
  /-- `P[3]`, named `state` in R12 -/
  runState : Byte
  /-- `P[4]` -/
  fault : Byte
  /-- `P[5]` -/
  pitchOrDutyCycle : F64
  /-- `P[6]` -/
  rpm : F64
  /-- `P[7]` -/
  avgInputCurrent : F64
  /-- `P[8]` -/
  inpVoltage : F64
  /-- `P[9]` -/
  headlightBrightness : Byte
  /-- `P[10]` -/
  headlightIdleBrightness : Byte
  /-- `P[11]` -/
  statusbarBrightness : Byte
  deriving DecidableEq, Repr

/-- `rx_phase` (R19); the value 3 is never taken. -/
inductive RxPhase where
  | hunt
  | len
  | body
  deriving DecidableEq, Repr

/-- `ds`, the sequencer state (R20). -/
inductive Seq where
  | loopTop
  | awaitingFrame
  | dispatching
  | responding
  deriving DecidableEq, Repr

/-- The byte widths of the fixed-point encoders; no other exists (R100). -/
inductive FxWidth where
  | w1
  | w2
  | w4
  deriving DecidableEq, Repr

/-- The two records (R120). -/
inductive RecordName where
  | telem
  | poll
  deriving DecidableEq, Repr

/-- The information of a `FixedPointOverflow` (R191): the record and register inside a record
encoding, the operands on the local port. -/
inductive FxInfo where
  | field (r : RecordName) (index : Nat)
  | operands (v : F64) (w : FxWidth) (s : Nat)
  deriving DecidableEq, Repr

/-- The two recognised commands without a reply (R197). -/
inductive NoReplyCommand where
  | chgstate
  | lcmdebug
  deriving DecidableEq, Repr

/-- An event with the information it records (R191). -/
inductive Event where
  | malformed
  | crcMismatch (crcRx crcCalc : Half)
  | fixedPointOverflow (info : FxInfo)
  | transportError
  | unknownCommand (p : List Byte)
  | knownNoReply (c : NoReplyCommand)
  deriving DecidableEq, Repr

/-- The result of a deframe (R141). -/
inductive DeframeResult where
  | ok (payload : List Byte)
  | malformed
  | crcMismatch (crcRx crcCalc : Half)
  | pending
  deriving DecidableEq, Repr

/-- What an operation delivers on the local port (column "Result out" of R75); `none` before any has. -/
inductive PortOut where
  | none
  | crc (c : Half)
  | encoded (bytes : List Byte) (ovf : Bool)
  | framed (bytes : List Byte)
  | deframed (res : DeframeResult) (rest : List Byte)
  deriving DecidableEq, Repr

/-- One turn of an agent (R6), as the agenda lists it. -/
inductive Action where
  /-- the engine takes the step it has -/
  | eng
  /-- the collaborator puts a word on the local port -/
  | col (w : PortWord)
  /-- the function port is invoked with a word -/
  | fn (w : PortWord)
  /-- `LinkPut b` -/
  | linkPut (b : Byte)
  /-- `LinkTake` -/
  | linkTake
  /-- `LinkFail` -/
  | linkFail
  /-- the configuration input offers a value for `CFG.fi_en` (R23) -/
  | cfgInput (fiEn : Bool)
  /-- a request for fault injection by appended garbage bytes (R152) -/
  | fiGarbage
  deriving DecidableEq, Repr

/-- The reasons the machine stops with a fault. The spec has none (93, section 2). -/
inductive Fault where
  /-- An access to an `rx_buf` address outside 0 to 257, raised by `RxByte`. Safe: the address does not
  exist (R40), and no state with the model's invariant reaches it. -/
  | rxBufAddress
  /-- A read of an `rx_buf` byte that nothing has written, raised by `RxByte`. Safe: its value is
  unspecified and "never read before written" (R27, R146; log 13). -/
  | rxBufUnwritten
  deriving DecidableEq, Repr

/-- The reasons the model gives a request no meaning, the spec's `refuse(reason)` (93, section 2). -/
inductive Refusal where
  /-- Raised by an arm of `exec` for an instruction without a meaning. Safe. No arm raises it. -/
  | notModelled (mnemonic : String)
  /-- `refuse(bad_op)`, a reserved operation select, raised by the local port (R76). Safe. -/
  | badOp (op : BitVec 4)
  /-- `refuse(bad_field)`, raised by `SETT` and `SETP` (R13). Safe. -/
  | badField
  /-- `refuse(bad_scale)`, raised by `ENCFX8`, `ENCFX16`, `ENCFX32` (R108). Safe. -/
  | badScale
  /-- `refuse(payload_too_long)`, raised by `REFRAME` (R150), and by `Respond` in states that no run
  reaches (log 19). Safe. -/
  | payloadTooLong
  /-- `refuse(fi_garbage)`, raised by a request for garbage injection (R152). Safe. -/
  | fiGarbage
  /-- An access outside the agents' rights "is `refuse`" (R205), raised by the local port (log 10). Safe. -/
  | accessRights
  deriving DecidableEq, Repr

/-- A byte-addressed store: the written bytes, addresses strictly rising; a byte that is not listed
has no value (log 13). -/
abbrev Memory := List Host.Cell

/-- The state. The fields up to `ev` are R10's; the last four are the model's own. -/
structure State where
  /-- the telemetry record `T` (R11) -/
  telem : Telem
  /-- the poll record `P` (R12) -/
  poll : Poll
  /-- `RXQ`, head first (R17) -/
  rxq : List Byte
  /-- `TXQ`, head first (R17) -/
  txq : List Byte
  /-- `rx_phase` (R18, R19) -/
  rxPhase : RxPhase
  /-- `rx_len` (R18) -/
  rxLen : Byte
  /-- `rx_cnt`, 0 to 258 (R18) -/
  rxCnt : Nat
  /-- `rx_buf` (R18) -/
  rxBuf : Memory
  /-- `ds` (R20) -/
  ds : Seq
  /-- `rx_result`, valid only in `Dispatching` (R20) -/
  rxResult : List Byte
  /-- `tx_payload`, valid only in `Responding` (R20) -/
  txPayload : List Byte
  /-- `tx_fi`, valid only in `Responding` (R20) -/
  txFi : Bool
  /-- `stop` (R24) -/
  stop : Bool
  /-- `halted` (R24) -/
  halted : Bool
  /-- `STATUS` (R22) -/
  status : BitVec 4
  /-- `CFG.fi_en` as stored (R23) -/
  cfgFiEn : Bool
  /-- `EV`, oldest first (R25) -/
  ev : List Event
  /-- MODEL: the turns of the agents to come (log 7) -/
  agenda : List Action
  /-- MODEL: the result last delivered on the local port (log 11) -/
  portOut : PortOut
  /-- MODEL: the byte the link last took (log 12) -/
  linkOut : Option Byte
  /-- MODEL: the number of free values used so far (log 16) -/
  draws : Nat
  deriving DecidableEq, Repr

/-- `T` after reset (R27). -/
def Telem.reset : Telem :=
  { id := 0, tempFet := F64.zero, tempMotor := F64.zero, avgMotorCurrent := F64.zero,
    avgInputCurrent := F64.zero, avgId := F64.zero, avgIq := F64.zero, dutyCycleNow := F64.zero,
    rpm := F64.zero, voltageFiltered := F64.zero, ampHours := F64.zero, ampHoursCharged := F64.zero,
    wattHours := F64.zero, wattHoursCharged := F64.zero, tachometer := F64.zero,
    tachometerAbs := F64.zero, faultCode := 0 }

/-- `P` after reset (R27). -/
def Poll.reset : Poll :=
  { id := 0, floatpkg := 0, floatcmd := 0, runState := 0, fault := 0, pitchOrDutyCycle := F64.zero,
    rpm := F64.zero, avgInputCurrent := F64.zero, inpVoltage := F64.zero, headlightBrightness := 0,
    headlightIdleBrightness := 0, statusbarBrightness := 0 }

/-- The state after reset (R27, R220). `rxResult`, `txPayload`, `txFi` are unspecified there and named
here, DESIGN CHOICE (log 14); the model's own fields are DESIGN CHOICE (log 22). -/
def State.reset : State :=
  { telem := Telem.reset, poll := Poll.reset, rxq := [], txq := [], rxPhase := .hunt, rxLen := 0,
    rxCnt := 0, rxBuf := [], ds := .loopTop, rxResult := [], txPayload := [], txFi := false,
    stop := false, halted := false, status := 0, cfgFiEn := false, ev := [], agenda := [],
    portOut := .none, linkOut := none, draws := 0 }

end Sys2Proof.Machine
end

