-- ==== Sys2Proof/Machine/Operands.lean ====
section
/-! DEFINITION. The register files by index (10_state.md R11 to R13): the typed write of `SETT` and
`SETP`, and the register an index names. -/

namespace Sys2Proof.Machine

/-- `T[i]` with its type; no operation of the block reads a single register (R14), statements do. -/
def Telem.get (t : Telem) : Nat → Option FieldVal
  | 0 => some (.u8 t.id)
  | 1 => some (.fmt t.tempFet)
  | 2 => some (.fmt t.tempMotor)
  | 3 => some (.fmt t.avgMotorCurrent)
  | 4 => some (.fmt t.avgInputCurrent)
  | 5 => some (.fmt t.avgId)
  | 6 => some (.fmt t.avgIq)
  | 7 => some (.fmt t.dutyCycleNow)
  | 8 => some (.fmt t.rpm)
  | 9 => some (.fmt t.voltageFiltered)
  | 10 => some (.fmt t.ampHours)
  | 11 => some (.fmt t.ampHoursCharged)
  | 12 => some (.fmt t.wattHours)
  | 13 => some (.fmt t.wattHoursCharged)
  | 14 => some (.fmt t.tachometer)
  | 15 => some (.fmt t.tachometerAbs)
  | 16 => some (.u8 t.faultCode)
  | _ => none

/-- `T[i] <- v` (R13); `none` where the index is above 16 or the value is not of the register's type. -/
def Telem.set (t : Telem) : Nat → FieldVal → Option Telem
  | 0, .u8 b => some { t with id := b }
  | 1, .fmt v => some { t with tempFet := v }
  | 2, .fmt v => some { t with tempMotor := v }
  | 3, .fmt v => some { t with avgMotorCurrent := v }
  | 4, .fmt v => some { t with avgInputCurrent := v }
  | 5, .fmt v => some { t with avgId := v }
  | 6, .fmt v => some { t with avgIq := v }
  | 7, .fmt v => some { t with dutyCycleNow := v }
  | 8, .fmt v => some { t with rpm := v }
  | 9, .fmt v => some { t with voltageFiltered := v }
  | 10, .fmt v => some { t with ampHours := v }
  | 11, .fmt v => some { t with ampHoursCharged := v }
  | 12, .fmt v => some { t with wattHours := v }
  | 13, .fmt v => some { t with wattHoursCharged := v }
  | 14, .fmt v => some { t with tachometer := v }
  | 15, .fmt v => some { t with tachometerAbs := v }
  | 16, .u8 b => some { t with faultCode := b }
  | _, _ => none

/-- `P[i]` with its type. -/
def Poll.get (p : Poll) : Nat → Option FieldVal
  | 0 => some (.u8 p.id)
  | 1 => some (.u8 p.floatpkg)
  | 2 => some (.u8 p.floatcmd)
  | 3 => some (.u8 p.runState)
  | 4 => some (.u8 p.fault)
  | 5 => some (.fmt p.pitchOrDutyCycle)
  | 6 => some (.fmt p.rpm)
  | 7 => some (.fmt p.avgInputCurrent)
  | 8 => some (.fmt p.inpVoltage)
  | 9 => some (.u8 p.headlightBrightness)
  | 10 => some (.u8 p.headlightIdleBrightness)
  | 11 => some (.u8 p.statusbarBrightness)
  | _ => none

/-- `P[i] <- v` (R13); `none` where the index is above 11 or the value is not of the register's type. -/
def Poll.set (p : Poll) : Nat → FieldVal → Option Poll
  | 0, .u8 b => some { p with id := b }
  | 1, .u8 b => some { p with floatpkg := b }
  | 2, .u8 b => some { p with floatcmd := b }
  | 3, .u8 b => some { p with runState := b }
  | 4, .u8 b => some { p with fault := b }
  | 5, .fmt v => some { p with pitchOrDutyCycle := v }
  | 6, .fmt v => some { p with rpm := v }
  | 7, .fmt v => some { p with avgInputCurrent := v }
  | 8, .fmt v => some { p with inpVoltage := v }
  | 9, .u8 b => some { p with headlightBrightness := b }
  | 10, .u8 b => some { p with headlightIdleBrightness := b }
  | 11, .u8 b => some { p with statusbarBrightness := b }
  | _, _ => none

end Sys2Proof.Machine
end

