-- ==== Sys2Proof/Machine/Flags.lean ====
section
/-! DEFINITION. `STATUS` and the event codes: which sticky flag each event sets (10_state.md R22,
60_exceptions.md R191), and the numbers of the sequencer states and deframer phases (R19, R20). No operation reads a flag. -/

namespace Sys2Proof.Machine

/-- The code number of an event (R191). -/
def Event.code : Event → Nat
  | .malformed => 1
  | .crcMismatch _ _ => 2
  | .fixedPointOverflow _ => 3
  | .transportError => 4
  | .unknownCommand _ => 5
  | .knownNoReply _ => 6

/-- The value of `rx_phase` (R19). -/
def RxPhase.code : RxPhase → BitVec 2
  | .hunt => 0
  | .len => 1
  | .body => 2

/-- The value of `ds` (R20). -/
def Seq.code : Seq → BitVec 2
  | .loopTop => 0
  | .awaitingFrame => 1
  | .dispatching => 2
  | .responding => 3

/-- The `STATUS` bit of an event, if it has one (R22, R191): `MALFORMED` 0, `CRCMISMATCH` 1, `FXOVF` 2,
`UNKNOWNCMD` 3. -/
def Event.flag : Event → Option Nat
  | .malformed => some 0
  | .crcMismatch _ _ => some 1
  | .fixedPointOverflow _ => some 2
  | .transportError => none
  | .unknownCommand _ => some 3
  | .knownNoReply _ => none

/-- The `STATUS` word with an event's bit alone set. -/
def Event.statusMask (e : Event) : BitVec 4 :=
  match e.flag with
  | some k => 1#4 <<< k
  | none => 0

/-- `STATUS` after a `raise`: flags are sticky (R22). -/
def setFlag (status : BitVec 4) (e : Event) : BitVec 4 := status ||| e.statusMask

end Sys2Proof.Machine
end

