-- ==== Sys2Proof/Machine/Ops.lean ====
section
/-! DEFINITION. The operations every unit shares: byte order (00_scope.md R7), the RX buffer
(20_memory.md R40), raising an event and dropping a frame, which stand where a processor takes an
exception (60_exceptions.md R190, R201), and delivering a result on the local port (R75). -/

namespace Sys2Proof.Machine

/-- `BE(n, w)`: the `w` low bytes of `n`, most significant first (R7, R41). -/
def be (n : Nat) : Nat → List Byte
  | 0 => []
  | w + 1 => BitVec.ofNat 8 (n >>> (8 * w)) :: be n w

/-- `UBE(s)`: a byte sequence read most significant byte first (R7). -/
def ube (s : List Byte) : Nat := s.foldl (fun n b => 256 * n + b.toNat) 0

/-- `tc_N(r)`: the `N`-bit two's-complement pattern of `r` (R7). -/
def tc (N : Nat) (r : Int) : Nat := (r % ((2 ^ N : Nat) : Int)).toNat

/-- `sext_N(v)`: an `N`-bit pattern read as a signed integer (R7). -/
def sext (N v : Nat) : Int := if v < 2 ^ (N - 1) then v else v - ((2 ^ N : Nat) : Int)

/-- The canonical form of a store: addresses strictly rising, each one that exists (R40). -/
abbrev Memory.wf (m : Memory) : Prop :=
  m.Pairwise (fun x y => x.1 < y.1) ∧ ∀ c ∈ m, c.1 < Config.rxBufSize

/-- The byte listed at an address, if one is. An unlisted byte has no value (log 13). -/
def Memory.lookup : Memory → Nat → Option Byte
  | [], _ => none
  | (x, b) :: m, a => if a = x then some b else Memory.lookup m a

/-- A store with one byte put at its place in the canonical form. -/
def Memory.insert : Memory → Nat → Byte → Memory
  | [], a, b => [(a, b)]
  | (x, c) :: m, a, b =>
    if a < x then (a, b) :: (x, c) :: m
    else if a = x then (a, b) :: m
    else (x, c) :: Memory.insert m a b

/-- `rx_buf[a]` (R8): a fault where the address does not exist or the byte was never written. -/
def rxBufRead (m : Memory) (a : Nat) : Except Fault Byte :=
  if a < Config.rxBufSize then
    match m.lookup a with
    | some b => .ok b
    | none => .error .rxBufUnwritten
  else .error .rxBufAddress

/-- `rx_buf[a] <- b` (R8): a fault where the address does not exist. -/
def rxBufWrite (m : Memory) (a : Nat) (b : Byte) : Except Fault Memory :=
  if a < Config.rxBufSize then .ok (m.insert a b) else .error .rxBufAddress

/-- `rx_buf[a : a + n]`. -/
def rxBufSlice (m : Memory) (a : Nat) : Nat → Except Fault (List Byte)
  | 0 => .ok []
  | n + 1 =>
    match rxBufRead m a with
    | .error f => .error f
    | .ok b =>
      match rxBufSlice m (a + 1) n with
      | .error f => .error f
      | .ok bs => .ok (b :: bs)

/-- `raise e`: append to the trace, set the sticky flag, and nothing else (R190). -/
def raise (e : Event) (s : State) : State :=
  { s with ev := s.ev ++ [e], status := setFlag s.status e }

/-- `raise` of several events in order. -/
def raiseAll (es : List Event) (s : State) : State := es.foldl (fun s e => raise e s) s

/-- A frame is dropped: its event is raised and the sequencer goes to the loop top; nothing is saved
and nothing else changes (R179, R201). There is no return from it (R202). -/
def dropFrame (e : Event) (s : State) : State := { raise e s with ds := .loopTop }

/-- A reply payload is handed to the framer (R172, R173). -/
def handReply (payload : List Byte) (fi : Bool) (s : State) : State :=
  { s with txPayload := payload, txFi := fi, ds := .responding }

/-- A result is delivered on the local port (R75; log 11). -/
def deliver (r : PortOut) (s : State) : State := { s with portOut := r }

end Sys2Proof.Machine
end

