-- ==== Sys2Proof/Machine/Collaborator.lean ====
section
/-! DEFINITION. The collaborator's operations: `SETT`, `SETP` (10_state.md R13) and `SETSTOP`
(44_command_dispatch.md R178). They have no result on the port (R75) and
change nothing but the element they write. -/

namespace Sys2Proof.Machine

/-- `SETT i, v` (R13). -/
def execSett (i : Nat) (v : FieldVal) (s : State) : Host.Outcome State Fault Refusal :=
  match s.telem.set i v with
  | some t => .next { s with telem := t }
  | none => .refused .badField

/-- `SETP i, v` (R13). -/
def execSetp (i : Nat) (v : FieldVal) (s : State) : Host.Outcome State Fault Refusal :=
  match s.poll.set i v with
  | some p => .next { s with poll := p }
  | none => .refused .badField

/-- `SETSTOP` (R178): the stop signal is latched. -/
def execSetstop (s : State) : Host.Outcome State Fault Refusal :=
  .next { s with stop := true }

end Sys2Proof.Machine
end

