-- ==== Sys2Proof/Machine/Frame.lean ====
section
/-! DEFINITION. The frame protocol (43_frame_protocol.md): deframe and reframe as functions, and
`DEFRAME`, `REFRAME`. -/

namespace Sys2Proof.Machine

/-- The verdict on a candidate frame of declared length `L`, given the `L + 3` bytes after the length
byte: the end marker is tested first, the CRC only if it is right (R142 steps 3 to 6, R146, R147). -/
def checkBody (L : Nat) (body : List Byte) : DeframeResult :=
  if body.getD (L + 2) 0 ≠ Config.endMarker then .malformed
  else
    let payload := body.take L
    let crcRx : Half := BitVec.ofNat 16 (ube ((body.drop L).take 2))
    let crcCalc := crc16 payload
    if crcCalc ≠ crcRx then .crcMismatch crcRx crcCalc else .ok payload

/-- `DEFRAME(s)`: the result and the bytes not consumed (R142). -/
def deframe (s : List Byte) : DeframeResult × List Byte :=
  match s.dropWhile (· ≠ Config.startMarker) with
  | _ :: len :: body =>
    if body.length < len.toNat + 3 then (.pending, [])
    else (checkBody len.toNat (body.take (len.toNat + 3)), body.drop (len.toNat + 3))
  | _ => (.pending, [])

/-- The event of a deframe result, if it has one (R142, R191). -/
def DeframeResult.events : DeframeResult → List Event
  | .malformed => [.malformed]
  | .crcMismatch crcRx crcCalc => [.crcMismatch crcRx crcCalc]
  | .ok _ | .pending => []

/-- A frame around payload `p` with CRC field `c` (R60, R149); `none` where the payload is longer than
the length byte can say, never a length modulo 256 (R150). -/
def frameWith (c : Half) (p : List Byte) : Option (List Byte) :=
  if p.length ≤ Config.payloadMax then
    some ([Config.startMarker, BitVec.ofNat 8 p.length] ++ p ++ crcBytes c ++ [Config.endMarker])
  else none

/-- `REFRAME(p)` (R149). -/
def reframe (p : List Byte) : Option (List Byte) := frameWith (crc16 p) p

/-- `REFRAME p` (R149, R150). -/
def execReframe (p : List Byte) (s : State) : Host.Outcome State Fault Refusal :=
  match reframe p with
  | some frame => .next (deliver (.framed frame) s)
  | none => .refused .payloadTooLong

/-- `DEFRAME s` (R142): on the function port the operation raises the event itself (90 C9). -/
def execDeframe (bytes : List Byte) (s : State) : Host.Outcome State Fault Refusal :=
  let d := deframe bytes
  .next (deliver (.deframed d.1 d.2) (raiseAll d.1.events s))

end Sys2Proof.Machine
end

