-- ==== Sys2Proof/Machine/FixedPoint.lean ====
section
/-! DEFINITION. The fixed-point encoders (41_fixed_point.md): the exact value of a binary64 datum,
`round_to_int`, the common function `fx`, and `ENCFX8`, `ENCFX16`, `ENCFX32`. -/

namespace Sys2Proof.Machine

/-- The biased exponent of a binary64 datum (log 2). -/
def fmtExp (v : F64) : Nat := (v.extractLsb' 52 11).toNat

/-- The fraction field of a binary64 datum. -/
def fmtFrac (v : F64) : Nat := (v.extractLsb' 0 52).toNat

/-- The sign bit of a binary64 datum. -/
def fmtNeg (v : F64) : Bool := v.msb

/-- Whether a datum is a NaN (R107). -/
def isNaN (v : F64) : Bool := fmtExp v == 2047 && fmtFrac v != 0

/-- Whether a datum is an infinity of either sign (R107). -/
def isInf (v : F64) : Bool := fmtExp v == 2047 && fmtFrac v == 0

/-- Whether a datum has a real value; subnormals do (R107). -/
def isFinite (v : F64) : Bool := fmtExp v != 2047

/-- Every finite binary64 datum is an integer over `2 ^ 1074`: the denominator of `real(v)` (R7). Powers of
two are written as shifts, which Lean evaluates on numerals of any size. -/
def realDen : Nat := 1 <<< 1074

/-- The numerator of `real(v)` over `realDen`: significand times `2 ^ (max(exponent, 1) - 1)`, with the
implicit leading one of a normal datum. -/
def realNum (v : F64) : Int :=
  let significand := if fmtExp v = 0 then fmtFrac v else 2 ^ 52 + fmtFrac v
  let magnitude := significand <<< (fmtExp v - 1)
  if fmtNeg v then -(magnitude : Int) else magnitude

/-- `round_to_int(n / d)` for `d > 0`: the nearest integer, a tie to the even one (R102; log 3). -/
def roundToInt (n : Int) (d : Nat) : Int :=
  let f := n / d
  let twice := 2 * (n % d)
  if twice > d then f + 1
  else if twice < d then f
  else if f % 2 = 0 then f else f + 1

/-- The byte width `w` (R101). -/
def FxWidth.bytes : FxWidth → Nat
  | .w1 => 1
  | .w2 => 2
  | .w4 => 4

/-- The smallest code of a width, `-2^(N-1)` (R101, R109). -/
def fxLo (w : FxWidth) : Int := -((2 ^ (8 * w.bytes - 1) : Nat) : Int)

/-- The largest code of a width, `2^(N-1) - 1` (R101, R109). -/
def fxHi (w : FxWidth) : Int := ((2 ^ (8 * w.bytes - 1) : Nat) : Int) - 1

/-- The outputs of an encoder: exactly `w` bytes and the overflow bit (R101). -/
structure FxOut where
  bytes : List Byte
  ovf : Bool
  deriving DecidableEq, Repr

/-- `BE(tc_N(r), w)` (R65). -/
def fxBytes (r : Int) (w : FxWidth) : List Byte := be (tc (8 * w.bytes) r) w.bytes

/-- The clamp of a rounded integer, with the overflow bit; never a wrap (R106). -/
def fxClamp (q : Int) (w : FxWidth) : FxOut :=
  if q > fxHi w then { bytes := fxBytes (fxHi w) w, ovf := true }
  else if q < fxLo w then { bytes := fxBytes (fxLo w) w, ovf := true }
  else { bytes := fxBytes q w, ovf := false }

/-- `fx(v, w, s)` less its `raise`, which the caller makes with the information R191 asks for (R101). -/
def fx (v : F64) (w : FxWidth) (s : Nat) : FxOut :=
  if isNaN v then { bytes := fxBytes Config.fxNanCode w, ovf := true }
  else if isInf v then { bytes := fxBytes (if fmtNeg v then fxLo w else fxHi w) w, ovf := true }
  else fxClamp (roundToInt (realNum v * s) realDen) w

/-- An encoder on the local port: scale 0 is refused (R108), an overflow raises its event with the
operands (R191), the bytes and `ovf` are delivered. -/
def encodeOnPort (v : F64) (w : FxWidth) (scale : Half) (s : State) : Host.Outcome State Fault Refusal :=
  if scale = 0 then .refused .badScale
  else
    let o := fx v w scale.toNat
    let events := if o.ovf then [Event.fixedPointOverflow (.operands v w scale.toNat)] else []
    .next (deliver (.encoded o.bytes o.ovf) (raiseAll events s))

/-- `ENCFX8 v, s` (R103). -/
def execEncfx8 (v : F64) (scale : Half) (s : State) : Host.Outcome State Fault Refusal :=
  encodeOnPort v .w1 scale s

/-- `ENCFX16 v, s` (R104). -/
def execEncfx16 (v : F64) (scale : Half) (s : State) : Host.Outcome State Fault Refusal :=
  encodeOnPort v .w2 scale s

/-- `ENCFX32 v, s` (R105). -/
def execEncfx32 (v : F64) (scale : Half) (s : State) : Host.Outcome State Fault Refusal :=
  encodeOnPort v .w4 scale s

/-- The reference function `decode_fixed(b, s)`, an exact rational; no operation of the block (R110). -/
def decodeFixed (b : List Byte) (s : Nat) : ℚ := (sext (8 * b.length) (ube b) : ℚ) / s

/-- `real(v)` as a rational (R7), for statements. -/
def realOf (v : F64) : ℚ := (realNum v : ℚ) / realDen

end Sys2Proof.Machine
end

