-- ==== Sys2Proof/Machine/Records.lean ====
section
/-! DEFINITION. The record serializers (42_record_codecs.md): the two schemas, the encoding pass, and
`ENCTELEM`, `ENCPOLL`. -/

namespace Sys2Proof.Machine

/-- How a field of a record `R` is encoded (R120): an unsigned-8 register as it is, or a floating
register through the encoder of a width with a scale. -/
inductive FieldEnc (R : Type) where
  | ident (get : R → Byte)
  | fixed (get : R → F64) (w : FxWidth) (scale : Nat)

/-- A schema row: the register index, which an overflow event carries (R126), and its encoding. -/
structure Field (R : Type) where
  index : Nat
  enc : FieldEnc R

/-- What an encoding pass yields: the output buffer, the inclusive-or of the overflow bits, and the
indices of the fields that overflowed, in field order (R120, R126). -/
structure Encoded where
  bytes : List Byte
  ovf : Bool
  overflowed : List Nat
  deriving DecidableEq, Repr

/-- One field of a snapshot (R120). -/
def encodeField {R : Type} (f : Field R) (r : R) : FxOut :=
  match f.enc with
  | .ident get => { bytes := [get r], ovf := false }
  | .fixed get w scale => fx (get r) w scale

/-- `encode_record(S, R)`: a single pass in declared order, fields packed (R120, R44). -/
def encodeRecord {R : Type} : List (Field R) → R → Encoded
  | [], _ => { bytes := [], ovf := false, overflowed := [] }
  | f :: fs, r =>
    let o := encodeField f r
    let e := encodeRecord fs r
    { bytes := o.bytes ++ e.bytes, ovf := o.ovf || e.ovf,
      overflowed := (if o.ovf then [f.index] else []) ++ e.overflowed }

/-- The TelemetrySnapshot schema, 17 fields (R121); the last repeats `T[0]` (R123). -/
def telemSchema : List (Field Telem) :=
  [ ⟨0, .ident Telem.id⟩,
    ⟨1, .fixed Telem.tempFet .w2 10⟩,
    ⟨2, .fixed Telem.tempMotor .w2 10⟩,
    ⟨3, .fixed Telem.avgMotorCurrent .w4 1⟩,
    ⟨4, .fixed Telem.avgInputCurrent .w4 100⟩,
    ⟨5, .fixed Telem.avgId .w4 1⟩,
    ⟨6, .fixed Telem.avgIq .w4 1⟩,
    ⟨7, .fixed Telem.dutyCycleNow .w2 1000⟩,
    ⟨8, .fixed Telem.rpm .w4 1⟩,
    ⟨9, .fixed Telem.voltageFiltered .w2 10⟩,
    ⟨10, .fixed Telem.ampHours .w4 1⟩,
    ⟨11, .fixed Telem.ampHoursCharged .w4 1⟩,
    ⟨12, .fixed Telem.wattHours .w4 1⟩,
    ⟨13, .fixed Telem.wattHoursCharged .w4 1⟩,
    ⟨14, .fixed Telem.tachometer .w4 1⟩,
    ⟨15, .fixed Telem.tachometerAbs .w4 1⟩,
    ⟨0, .ident Telem.id⟩ ]

/-- The CustomAppPollResponse schema, 12 fields (R124). -/
def pollSchema : List (Field Poll) :=
  [ ⟨0, .ident Poll.id⟩,
    ⟨1, .ident Poll.floatpkg⟩,
    ⟨2, .ident Poll.floatcmd⟩,
    ⟨3, .ident Poll.runState⟩,
    ⟨4, .ident Poll.fault⟩,
    ⟨5, .fixed Poll.pitchOrDutyCycle .w1 100⟩,
    ⟨6, .fixed Poll.rpm .w2 10⟩,
    ⟨7, .fixed Poll.avgInputCurrent .w2 100⟩,
    ⟨8, .fixed Poll.inpVoltage .w2 10⟩,
    ⟨9, .ident Poll.headlightBrightness⟩,
    ⟨10, .ident Poll.headlightIdleBrightness⟩,
    ⟨11, .ident Poll.statusbarBrightness⟩ ]

/-- The encoding of one snapshot of `T` (R122, R128). -/
def encodeTelem (t : Telem) : Encoded := encodeRecord telemSchema t

/-- The encoding of one snapshot of `P` (R125, R128). -/
def encodePoll (p : Poll) : Encoded := encodeRecord pollSchema p

/-- The events of an encoding: one per overflowing field, in field order (R126). -/
def overflowEvents (r : RecordName) (e : Encoded) : List Event :=
  e.overflowed.map fun i => .fixedPointOverflow (.field r i)

/-- `ENCTELEM` (R122): snapshot and encode `T`, raise the overflows, deliver the bytes. -/
def execEnctelem (s : State) : Host.Outcome State Fault Refusal :=
  let e := encodeTelem s.telem
  .next (deliver (.encoded e.bytes e.ovf) (raiseAll (overflowEvents .telem e) s))

/-- `ENCPOLL` (R125): snapshot and encode `P`, raise the overflows, deliver the bytes. -/
def execEncpoll (s : State) : Host.Outcome State Fault Refusal :=
  let e := encodePoll s.poll
  .next (deliver (.encoded e.bytes e.ovf) (raiseAll (overflowEvents .poll e) s))

end Sys2Proof.Machine
end

