-- ==== Sys2Proof/Machine/Wire.lean ====
section
/-! DEFINITION. The wire commands (44_command_dispatch.md R172 to R176), each the whole of a `Dispatch`
step for a payload of its row. -/

namespace Sys2Proof.Machine

/-- `GETVALUES` (R172): encode `T` as it stands, hand the 54 bytes to the framer. -/
def execGetvalues (s : State) : Host.Outcome State Fault Refusal :=
  let e := encodeTelem s.telem
  .next (handReply e.bytes false (raiseAll (overflowEvents .telem e) s))

/-- `POLL` (R173): encode `P` as it stands, hand the 15 bytes to the framer as the fault-injectable
reply. -/
def execPoll (s : State) : Host.Outcome State Fault Refusal :=
  let e := encodePoll s.poll
  .next (handReply e.bytes true (raiseAll (overflowEvents .poll e) s))

/-- `CHGSTATE` (R174): recognised, recorded, no reply. -/
def execChgstate (s : State) : Host.Outcome State Fault Refusal :=
  .next (dropFrame (.knownNoReply .chgstate) s)

/-- `LCMDEBUG` (R175): recognised, recorded, no reply. -/
def execLcmdebug (s : State) : Host.Outcome State Fault Refusal :=
  .next (dropFrame (.knownNoReply .lcmdebug) s)

/-- `UNKNOWN` (R176): recorded with the payload, no reply. -/
def execUnknown (p : List Byte) (s : State) : Host.Outcome State Fault Refusal :=
  .next (dropFrame (.unknownCommand p) s)

end Sys2Proof.Machine
end

