-- ==== Sys2Proof/Machine/Dispatch.lean ====
section
/-! DEFINITION. The meaning of each operation, one arm per row of opcode_table.json. -/

namespace Sys2Proof.Machine

def exec (i : Instr) (s : State) : Host.Outcome State Fault Refusal :=
  match i with
  | .getvalues _ => Sys2Proof.Machine.execGetvalues s
  | .poll _ => Sys2Proof.Machine.execPoll s
  | .chgstate _ => Sys2Proof.Machine.execChgstate s
  | .lcmdebug _ => Sys2Proof.Machine.execLcmdebug s
  | .unknown p => Sys2Proof.Machine.execUnknown p s
  | .crc16 bytes => Sys2Proof.Machine.execCrc16 bytes s
  | .encfx8 v scale => Sys2Proof.Machine.execEncfx8 v scale s
  | .encfx16 v scale => Sys2Proof.Machine.execEncfx16 v scale s
  | .encfx32 v scale => Sys2Proof.Machine.execEncfx32 v scale s
  | .enctelem => Sys2Proof.Machine.execEnctelem s
  | .encpoll => Sys2Proof.Machine.execEncpoll s
  | .reframe p => Sys2Proof.Machine.execReframe p s
  | .deframe bytes => Sys2Proof.Machine.execDeframe bytes s
  | .sett j v => Sys2Proof.Machine.execSett j v s
  | .setp j v => Sys2Proof.Machine.execSetp j v s
  | .setstop => Sys2Proof.Machine.execSetstop s

end Sys2Proof.Machine
end

