-- ==== Sys2Proof/Machine/Engine.lean ====
section
/-! DEFINITION. The engine's own steps (44_command_dispatch.md R170): `LoopTop`, `RxByte` with the
hand-over, and `Respond`. `Dispatch` runs a decoded wire command and stands in Turn.lean. -/

namespace Sys2Proof.Machine

/-- `LoopTop` (R171): the one place `stop` is read. -/
def loopTopStep (s : State) : State :=
  if s.stop then { s with halted := true } else { s with ds := .awaitingFrame }

/-- Hand-over of a deframe result (R179). `pending` is never handed over; it would change nothing. -/
def handOver (res : DeframeResult) (s : State) : State :=
  match res with
  | .ok payload => { s with rxResult := payload, ds := .dispatching }
  | .malformed => dropFrame .malformed s
  | .crcMismatch crcRx crcCalc => dropFrame (.crcMismatch crcRx crcCalc) s
  | .pending => s

/-- Frame completion (R146), in the step that stored the last byte. -/
def completeFrame (s : State) : Host.Outcome State Fault Refusal :=
  match rxBufSlice s.rxBuf 0 (s.rxLen.toNat + 3) with
  | .error f => .fault f
  | .ok body => .next (handOver (checkBody s.rxLen.toNat body) { s with rxPhase := .hunt })

/-- `RxByte` in phase `BODY` (R145): store the byte, count it, and complete the frame when the count
reaches `rx_len + 3`. -/
def rxBodyStep (b : Byte) (s : State) : Host.Outcome State Fault Refusal :=
  match rxBufWrite s.rxBuf s.rxCnt b with
  | .error f => .fault f
  | .ok m =>
    let s' := { s with rxBuf := m, rxCnt := s.rxCnt + 1 }
    if s'.rxCnt = s'.rxLen.toNat + 3 then completeFrame s' else .next s'

/-- `RxByte` on the byte popped from `RXQ` (R143 to R146). -/
def rxByteStep (b : Byte) (s : State) : Host.Outcome State Fault Refusal :=
  match s.rxPhase with
  | .hunt => .next (if b = Config.startMarker then { s with rxPhase := .len } else s)
  | .len => .next { s with rxLen := b, rxCnt := 0, rxPhase := .body }
  | .body => rxBodyStep b s

/-- `CFG.fi_en` as it reads: hardwired to 0 while fault injection is absent (R23). -/
def fiEnabled (fiPresent : Bool) (s : State) : Bool := fiPresent && s.cfgFiEn

/-- Whether a `Respond` step takes its CRC from the fault-injection draws (R151, R177). -/
def respondInjects (fiPresent : Bool) (s : State) : Bool := fiEnabled fiPresent s && s.txFi

/-- The CRC field of a reply: the right one, or, where the draws are taken and hit, the drawn value
(R151, 93 U6). -/
def respondCrc (fiPresent : Bool) (s : State) : Half :=
  if respondInjects fiPresent s && Config.fiInject s.draws then Config.fiCrc s.draws
  else crc16 s.txPayload

/-- `Respond` (R177): the whole reply frame is appended to `TXQ` in this one step. -/
def respondStep (fiPresent : Bool) (s : State) : Host.Outcome State Fault Refusal :=
  match frameWith (respondCrc fiPresent s) s.txPayload with
  | none => .refused .payloadTooLong
  | some frame =>
    .next { s with
      txq := s.txq ++ frame
      ds := .loopTop
      draws := if respondInjects fiPresent s then s.draws + 1 else s.draws }

end Sys2Proof.Machine
end

