-- ==== Sys2Proof/Machine/Link.lean ====
section
/-! DEFINITION. The link's steps (10_state.md R17, 60_exceptions.md R204) and the configuration input
(R23). -/

namespace Sys2Proof.Machine

/-- `LinkPut b` appends a byte to the tail of `RXQ` (R17). -/
def linkPutStep (b : Byte) (s : State) : State := { s with rxq := s.rxq ++ [b] }

/-- `LinkTake` removes the head of `TXQ` (R17); with `TXQ` empty there is no step to take (log 8). -/
def linkTakeStep (s : State) : State :=
  match s.txq with
  | [] => s
  | b :: rest => { s with txq := rest, linkOut := some b }

/-- The free value a payload latch takes, at most 255 bytes (R10; log 15). -/
def freeLatch (n : Nat) : List Byte := (Config.freePayload n).take Config.payloadMax

/-- `LinkFail` (R204): the partial frame, the unread bytes and a pending reply are lost. The buffers it
leaves unspecified (93 U5) are free: `rx_buf` holds no byte, the latches hold free values (log 15). -/
def linkFailStep (s : State) : State :=
  { raise .transportError s with
    rxPhase := .hunt
    rxLen := 0
    rxCnt := 0
    ds := .loopTop
    rxq := []
    rxBuf := []
    rxResult := freeLatch s.draws
    txPayload := freeLatch (s.draws + 1)
    txFi := Config.freeBit s.draws
    draws := s.draws + 2 }

/-- The configuration input (R23): ignored while fault injection is absent. -/
def cfgInputStep (fiPresent fiEn : Bool) (s : State) : State :=
  if fiPresent then { s with cfgFiEn := fiEn } else s

end Sys2Proof.Machine
end

