-- ==== Sys2Proof/Machine/Turn.lean ====
section
/-! DEFINITION. Whose turn it is and what the turn does (00_scope.md R6, 44_command_dispatch.md R170,
60_exceptions.md R205), and where an operation is read from. -/

namespace Sys2Proof.Machine

/-- What one turn does: run a decoded operation at a state, or something else that is already done. -/
inductive Turn where
  | run (i : Instr) (s : State)
  | done (o : Host.Outcome State Fault Refusal)

/-- The two agents of the local port (R75). -/
inductive PortAgent where
  | col
  | fn
  deriving DecidableEq, Repr

/-- The agent that may invoke an operation on the local port (R6, R205); wire commands are no
operations of the port. -/
def Instr.portAgent : Instr → Option PortAgent
  | .sett _ _ | .setp _ _ | .setstop => some .col
  | .crc16 _ | .encfx8 _ _ | .encfx16 _ _ | .encfx32 _ _ | .enctelem | .encpoll | .reframe _ | .deframe _ =>
    some .fn
  | .getvalues _ | .poll _ | .chgstate _ | .lcmdebug _ | .unknown _ => none

/-- An agent puts a word on the local port: a reserved select is `refuse(bad_op)` (R76), an operation
of the other agent is refused (R205). -/
def portTurn (a : PortAgent) (w : PortWord) (s : State) : Turn :=
  match decodePort w with
  | .error (.badOp op) => .done (.refused (.badOp op))
  | .ok i => if Instr.portAgent i = some a then .run i s else .done (.refused .accessRights)

/-- The engine's turn: the one step enabled in the sequencer state (R170), and no step, so no change,
where none is: `RXQ` is empty, or the engine is halted (R24, R209; log 8, log 17). -/
def engTurn (s : State) : Turn :=
  if s.halted then .done (.next s)
  else
    match s.ds with
    | .loopTop => .done (.next (loopTopStep s))
    | .awaitingFrame =>
      match s.rxq with
      | [] => .done (.next s)
      | b :: rest => .done (rxByteStep b { s with rxq := rest })
    | .dispatching => .run (classify s.rxResult) s
    | .responding => .done (respondStep Config.fiPresent s)

/-- The turn an agenda entry stands for. -/
def actionTurn (a : Action) (s : State) : Turn :=
  match a with
  | .eng => engTurn s
  | .col w => portTurn .col w s
  | .fn w => portTurn .fn w s
  | .linkPut b => .done (.next (linkPutStep b s))
  | .linkTake => .done (.next (linkTakeStep s))
  | .linkFail => .done (.next (linkFailStep s))
  | .cfgInput fiEn => .done (.next (cfgInputStep Config.fiPresent fiEn s))
  | .fiGarbage => .done (.refused .fiGarbage)

/-- The next turn: the head of the agenda, or the engine's where the agenda is empty (log 7). -/
def nextTurn (s : State) : Turn :=
  match s.agenda with
  | [] => engTurn s
  | a :: rest => actionTurn a { s with agenda := rest }

/-- A word placed where the next turn reads it: a payload as the hand-over leaves it for `Dispatch`, a
port word at the head of the agenda, put there by the agent that may (log 20). -/
def placeCode (c : Code) (s : State) : State :=
  match c with
  | .wire p =>
    { s with rxResult := p, ds := .dispatching, halted := false, agenda := .eng :: s.agenda }
  | .port w =>
    let a : Action :=
      match decodePort w with
      | .ok i => if Instr.portAgent i = some .col then .col w else .fn w
      | .error _ => .fn w
    { s with agenda := a :: s.agenda }

end Sys2Proof.Machine
end

