-- ==== Sys2Proof/Machine/Step.lean ====
section
/-! DEFINITION. One step of the block: the next agent's turn (00_scope.md R6). -/

namespace Sys2Proof.Machine

/-- One atomic step: a decoded operation runs as `exec` says, anything else as its turn says. -/
def step (s : State) : Host.Outcome State Fault Refusal :=
  match nextTurn s with
  | .run i s' => exec i s'
  | .done o => o

/-- `s` with the instruction of a table word placed where the next step reads it (log 20). -/
def State.withFetchWord (s : State) (nbits w : Nat) : State := placeCode (tableCode nbits w) s

end Sys2Proof.Machine
end

