-- ==== Sys2Proof/Safety.lean ====
section
/-! DEFINITION. What holds of every state a run reaches, whose turn it is, and what a safe step is. -/

namespace Sys2Proof.Machine

/-- The frame in progress (R18, R26): a partial frame only while awaiting one; in `BODY` fewer bytes
are counted than the frame needs, and every counted byte has been written. -/
structure State.FrameInv (s : State) : Prop where
  /-- the buffer is in canonical form -/
  canonical : s.rxBuf.wf
  /-- a partial frame exists only in `AwaitingFrame` -/
  partialAwaits : s.rxPhase ≠ .hunt → s.ds = .awaitingFrame
  /-- `rx_cnt` is between 0 and 258 (R18) -/
  countBound : s.rxCnt ≤ 258
  /-- in `BODY` the count has not reached `rx_len + 3` (R145) -/
  countShort : s.rxPhase = .body → s.rxCnt < s.rxLen.toNat + 3
  /-- in `BODY` every counted byte is written (R146) -/
  countWritten : s.rxPhase = .body → ∀ k < s.rxCnt, (s.rxBuf.lookup k).isSome

/-- The invariant of the block. -/
structure State.Inv (s : State) : Prop extends State.FrameInv s where
  /-- a halted engine has seen `stop` and stands at the loop top (R24, R184) -/
  haltedAtTop : s.halted = true → s.ds = .loopTop ∧ s.stop = true
  /-- the payload to dispatch came from a frame (R20) -/
  resultBound : s.ds = .dispatching → s.rxResult.length ≤ 255
  /-- the reply to send is one of the two records, and `tx_fi` says which (R67, R172, R173) -/
  replyShape : s.ds = .responding →
    (s.txPayload.length = 54 ∧ s.txFi = false) ∨ (s.txPayload.length = 15 ∧ s.txFi = true)
  /-- `CFG.fi_en` is hardwired to 0 (R23) -/
  fiOff : s.cfgFiEn = false
  /-- a flag of `STATUS` is set exactly when an event that sets it is in the trace (R22) -/
  flagsMatch : ∀ k < 4, s.status.getLsbD k = s.ev.any fun e => e.flag == some k

/-- The next turn is the engine's, with the turns `turns` to come after it: the agenda says so, or is empty
(R6; log 7). -/
def State.EngineTurn (s : State) (turns : List Action) : Prop :=
  (s.agenda = [] ∧ turns = []) ∨ s.agenda = .eng :: turns

/-- A step is safe at `s` when it does not stop with a fault. -/
def State.NoFault (s : State) : Prop := ∀ f, step s ≠ .fault f

/-- Two states that differ at most in what no step reads (R26, 93 U5): the bytes of `rx_buf` that are not
counted in the frame in progress, `rx_result` outside `Dispatching`, and the reply latches outside
`Responding`. -/
def State.SameButUnread (a b : State) : Prop :=
  ∃ (buf : Memory) (res pay : List Byte) (fi : Bool),
    b = { a with rxBuf := buf, rxResult := res, txPayload := pay, txFi := fi } ∧
    (a.rxPhase = .body → ∀ k < a.rxCnt, buf.lookup k = a.rxBuf.lookup k) ∧
    (a.ds = .dispatching → res = a.rxResult) ∧
    (a.ds = .responding → pay = a.txPayload ∧ fi = a.txFi)

end Sys2Proof.Machine
end

