-- ==== Sys2Proof/Certificates/Slice0/Obligations.lean ====
section
/-! DEFINITION. The statements about the model, for the provers. Each docstring names the rules of spec/
a statement formalises, or says that it is the model's own. -/

open Sys2Proof Sys2Proof.Machine

/-! ## Encodings (30_encoding.md) -/

/-- Decoding the word of a well-formed operation gives the operation back, every operand at every value
(R70, R71, R75). -/
def Obligations.DecodeOfEncodeIsTheOperation : Prop :=
  ∀ i : Instr, i.wellFormed = true → decode (encode i) = .ok i

/-- Under either `CMD_MATCH`, every payload a frame can carry is classified as a well-formed command
whose payload it is: no byte is dropped and no payload is illegal (R71, R73). -/
def Obligations.EveryPayloadIsOneCommand : Prop :=
  ∀ (m : CmdMatch) (p : List Byte), p.length ≤ 255 →
    (classifyWith m p).wellFormedWith m = true ∧ encode (classifyWith m p) = .wire p

/-- R71: which payloads are which command, with prefix matching and with exact matching; the bytes after
the matched ones make no difference to what a known command does. This hardware matches by prefix, the
value R71 takes for the open parameter `CMD_MATCH` (log 5). -/
def Obligations.PayloadMatchingFollowsTheCommandTable : Prop :=
  ∀ p : List Byte,
    decode (.wire p) = .ok (classifyWith .byPrefix p) ∧
    ((∃ tail, classifyWith .byPrefix p = .getvalues tail) ↔ 1 ≤ p.length ∧ p[0]? = some 0x04) ∧
    ((∃ tail, classifyWith .byPrefix p = .poll tail) ↔
      3 ≤ p.length ∧ p[0]? = some 0x24 ∧ p[1]? = some 0x65 ∧ p[2]? = some 0x18) ∧
    ((∃ tail, classifyWith .byPrefix p = .chgstate tail) ↔
      3 ≤ p.length ∧ p[0]? = some 0x24 ∧ p[1]? = some 0x65 ∧ p[2]? = some 0x1C) ∧
    ((∃ tail, classifyWith .byPrefix p = .lcmdebug tail) ↔
      3 ≤ p.length ∧ p[0]? = some 0x24 ∧ p[1]? = some 0x65 ∧ p[2]? = some 0x63) ∧
    (classifyWith .byPrefix p = .unknown p ↔
      ¬(p[0]? = some 0x04) ∧
      ¬(p[0]? = some 0x24 ∧ p[1]? = some 0x65 ∧
        (p[2]? = some 0x18 ∨ p[2]? = some 0x1C ∨ p[2]? = some 0x63))) ∧
    (classifyWith .exact p =
      if p = [0x04] then .getvalues [] else if p = [0x24, 0x65, 0x18] then .poll []
      else if p = [0x24, 0x65, 0x1C] then .chgstate [] else if p = [0x24, 0x65, 0x63] then .lcmdebug []
      else .unknown p) ∧
    ∀ s : State,
      Sys2Proof.Machine.exec (.getvalues p) s = Sys2Proof.Machine.exec (.getvalues []) s ∧
      Sys2Proof.Machine.exec (.poll p) s = Sys2Proof.Machine.exec (.poll []) s ∧
      Sys2Proof.Machine.exec (.chgstate p) s = Sys2Proof.Machine.exec (.chgstate []) s ∧
      Sys2Proof.Machine.exec (.lcmdebug p) s = Sys2Proof.Machine.exec (.lcmdebug []) s

/-- R76: a reserved operation select on the local port, by either agent, is `refuse(bad_op)`. -/
def Obligations.ReservedSelectIsRefused : Prop :=
  ∀ (s : State) (w : PortWord) (rest : List Action),
    w.op ∈ [0x0#4, 0xC#4, 0xD#4, 0xE#4, 0xF#4] →
    s.agenda = .fn w :: rest ∨ s.agenda = .col w :: rest →
    step s = .refused (.badOp w.op)

/-- Words as the spec writes them: the four command payloads and a short one (R70, R73), the eleven
operation selects of the local port with any operands (R75), and a wire row in the table's numbering
(R72). The last clause is the model's choice (log 20): a table word of at most 8 bits that is not 0 is
a port word with operand lines of zeros. -/
def Obligations.WrittenWordsDecodeToTheirRow : Prop :=
  decode (.wire [0x04]) = .ok (.getvalues []) ∧
  decode (.wire [0x24, 0x65, 0x18]) = .ok (.poll []) ∧
  decode (.wire [0x24, 0x65, 0x1C]) = .ok (.chgstate []) ∧
  decode (.wire [0x24, 0x65, 0x63]) = .ok (.lcmdebug []) ∧
  decode (.wire [0x24, 0x65]) = .ok (.unknown [0x24, 0x65]) ∧
  (∀ w : PortWord,
    decodePort { w with op := 0x1 } = .ok (.crc16 w.bytes) ∧
    decodePort { w with op := 0x2 } = .ok (.encfx8 w.v w.scale) ∧
    decodePort { w with op := 0x3 } = .ok (.encfx16 w.v w.scale) ∧
    decodePort { w with op := 0x4 } = .ok (.encfx32 w.v w.scale) ∧
    decodePort { w with op := 0x5 } = .ok .enctelem ∧
    decodePort { w with op := 0x6 } = .ok .encpoll ∧
    decodePort { w with op := 0x7 } = .ok (.reframe w.bytes) ∧
    decodePort { w with op := 0x8 } = .ok (.deframe w.bytes) ∧
    decodePort { w with op := 0x9 } = .ok (.sett w.index w.value) ∧
    decodePort { w with op := 0xA } = .ok (.setp w.index w.value) ∧
    decodePort { w with op := 0xB } = .ok .setstop) ∧
  decodeTableWord 24 0x246518 = some (.poll []) ∧
  decodeTableWord 8 0x8 = some (.deframe [])

/-! ## The CRC16 engine (40_crc16.md) -/

/-- R91: every table entry is its byte shifted to the top of a 16-bit register and clocked eight
times with polynomial 0x1021; the table has 256 entries. -/
def Obligations.CrcTableIsGeneratedByThePolynomial : Prop :=
  crcTab.length = 256 ∧
  ∀ b : Byte,
    crcEntry b =
      (fun c : Half => if c &&& 0x8000 = 0 then c <<< 1 else (c <<< 1) ^^^ 0x1021)^[8]
        (b.setWidth 16 <<< 8)

/-- R93, on integers of unbounded width as the rule writes it, with its own masks. -/
def Obligations.CrcStepFollowsItsFormula : Prop :=
  ∀ (c : Half) (b : Byte),
    (crcStep c b).toNat =
      ((crcTab.getD (((c.toNat >>> 8) ^^^ b.toNat) &&& 0xFF) 0).toNat ^^^ (c.toNat <<< 8)) &&& 0xFFFF

/-- The residue form of the check (R96), equivalent to the comparison. -/
def Obligations.CrcResidueIsZeroExactlyWhenTheCrcMatches : Prop :=
  ∀ (p : List Byte) (c : Half), crc16 (p ++ [(c >>> 8).setWidth 8, c.setWidth 8]) = 0 ↔ crc16 p = c

/-- R97: a single flipped bit in a payload changes its CRC, a single flipped bit in a CRC makes another
CRC, and so a framed message with one bit flipped in its payload or CRC region is a `CrcMismatch`. -/
def Obligations.CrcDetectsEverySingleBitError : Prop :=
  (∀ (p : List Byte) (i k : Nat) (h : i < p.length), p.length ≤ 255 → k < 8 →
    crc16 (p.set i (p[i] ^^^ (1#8 <<< k))) ≠ crc16 p) ∧
  (∀ (p : List Byte) (k : Nat), k < 16 → crc16 p ^^^ (1#16 <<< k) ≠ crc16 p) ∧
  (∀ (p f : List Byte) (i k : Nat) (h : i < f.length), reframe p = some f →
    2 ≤ i → i < p.length + 4 → k < 8 →
    ∃ crcRx crcCalc, deframe (f.set i (f[i] ^^^ (1#8 <<< k))) = (.crcMismatch crcRx crcCalc, []) ∧
      crcRx ≠ crcCalc)

/-- R98: the check value of the nine bytes `"123456789"`. -/
def Obligations.CrcCheckValueIs31C3 : Prop :=
  crc16 [0x31, 0x32, 0x33, 0x34, 0x35, 0x36, 0x37, 0x38, 0x39] = 0x31C3

/-- R94: `CRC16 s` completes in every state, delivers the fold of the update step from 0 and changes
nothing else; its corner cases. -/
def Obligations.Crc16DeliversTheChecksum : Prop :=
  (∀ (bytes : List Byte) (s : State),
    Sys2Proof.Machine.exec (.crc16 bytes) s =
      .next { s with portOut := .crc (bytes.foldl crcStep 0) }) ∧
  crc16 [] = 0 ∧ (∀ b : Byte, crc16 [b] = crcTab.getD b.toNat 0) ∧
  (∀ bytes : List Byte, crc16 (0x00 :: bytes) = crc16 bytes) ∧ crc16 [0x04] = 0x4084

/-! ## The fixed-point encoders (41_fixed_point.md) -/

/-- R102: `round_to_int` of `n / d` is within one half of it, and a tie goes to the even integer. -/
def Obligations.RoundingIsNearestTiesToEven : Prop :=
  ∀ (n : Int) (d : Nat), 0 < d →
    2 * |roundToInt n d * d - n| ≤ d ∧
    (2 * |roundToInt n d * d - n| = d → roundToInt n d % 2 = 0)

/-- "Rounding is symmetric about zero" (R109). -/
def Obligations.RoundingIsSymmetricAboutZero : Prop :=
  ∀ (n : Int) (d : Nat), 0 < d → roundToInt (-n) d = -roundToInt n d

/-- R106: the encoder of a finite datum outputs exactly `w` bytes that read back as the rounded integer
clamped to the signed range, never wrapped, and sets `ovf` exactly when the rounded integer lies
outside (R65, R101, R106). -/
def Obligations.EncoderClampsAndNeverWraps : Prop :=
  ∀ (v : F64) (w : FxWidth) (s : Nat), isFinite v = true →
    (fx v w s).bytes.length = w.bytes ∧
    sext (8 * w.bytes) (ube (fx v w s).bytes) =
      max (fxLo w) (min (fxHi w) (roundToInt (realNum v * s) realDen)) ∧
    ((fx v w s).ovf = true ↔
      roundToInt (realNum v * s) realDen < fxLo w ∨ fxHi w < roundToInt (realNum v * s) realDen)

/-- R107: infinities clamp to the nearer bound and overflow, a NaN encodes 0 and overflows, negative
zero encodes 0 without overflow, and subnormal data are finite. The data are named by their bits, in
the standard's layout, which the spec does not print (log 2), and the bytes of a NaN are those of the
parameter value `FX_NAN_CODE = 0` (log 4). -/
def Obligations.SpecialDataAreEncodedAsDecided : Prop :=
  (∀ (w : FxWidth) (s : Nat),
    fx 0x7FF0000000000000#64 w s = { bytes := fxBytes (fxHi w) w, ovf := true } ∧
    fx 0xFFF0000000000000#64 w s = { bytes := fxBytes (fxLo w) w, ovf := true } ∧
    fx 0x8000000000000000#64 w s = { bytes := List.replicate w.bytes 0x00, ovf := false }) ∧
  (∀ (v : F64) (w : FxWidth) (s : Nat), isNaN v = true →
    fx v w s = { bytes := List.replicate w.bytes 0x00, ovf := true }) ∧
  (∀ v : F64, v.extractLsb' 52 11 = 0 → isFinite v = true)

/-- R111: the encoding of a finite datum that does not overflow decodes to within `1 / (2 s)` of it, and
a value whose product lies a whole unit outside the range overflows. -/
def Obligations.FixedPointRoundTripIsWithinHalfAStep : Prop :=
  ∀ (v : F64) (w : FxWidth) (s : Nat), isFinite v = true → 1 ≤ s →
    ((fx v w s).ovf = false → |decodeFixed (fx v w s).bytes s - realOf v| ≤ 1 / (2 * (s : ℚ))) ∧
    (realOf v * s ≤ (fxLo w : ℚ) - 1 ∨ (fxHi w : ℚ) + 1 ≤ realOf v * s → (fx v w s).ovf = true)

/-- R103, R104, R105: with a scale of at least 1 each encoder completes in every state, delivers the
bytes and `ovf`, raises `FixedPointOverflow` with its operands and sets `FXOVF` exactly when `ovf`
is set, and changes nothing else; with scale 0 it is `refuse(bad_scale)` (R108). -/
def Obligations.EncodersDeliverBytesAndOverflow : Prop :=
  ∀ (v : F64) (scale : Half) (s : State),
    (scale ≠ 0 → ∀ after : FxWidth → State,
      (∀ w, after w =
        if (fx v w scale.toNat).ovf then
          { s with
            ev := s.ev ++ [.fixedPointOverflow (.operands v w scale.toNat)]
            status := s.status ||| 4#4
            portOut := .encoded (fx v w scale.toNat).bytes true }
        else { s with portOut := .encoded (fx v w scale.toNat).bytes false }) →
      Sys2Proof.Machine.exec (.encfx8 v scale) s = .next (after .w1) ∧
      Sys2Proof.Machine.exec (.encfx16 v scale) s = .next (after .w2) ∧
      Sys2Proof.Machine.exec (.encfx32 v scale) s = .next (after .w4)) ∧
    Sys2Proof.Machine.exec (.encfx8 v 0) s = .refused .badScale ∧
    Sys2Proof.Machine.exec (.encfx16 v 0) s = .refused .badScale ∧
    Sys2Proof.Machine.exec (.encfx32 v 0) s = .refused .badScale

/-! ## The record serializers (42_record_codecs.md) -/

/-- R127: the lengths of the two encodings do not depend on any value. -/
def Obligations.RecordLengthsAreFixed : Prop :=
  (∀ t : Telem, (encodeTelem t).bytes.length = 54) ∧ ∀ p : Poll, (encodePoll p).bytes.length = 15

/-- The telemetry layout of R121: every field at its offset, with its width and scale; the last byte
repeats `id` (R123), and the fault code `T[16]` is nowhere in it (90 C3). -/
def Obligations.TelemetryFieldsStandAtTheirOffsets : Prop :=
  ∀ t : Telem, ∀ b, b = (encodeTelem t).bytes →
    b.take 1 = [t.id] ∧
    (b.drop 1).take 2 = (fx t.tempFet .w2 10).bytes ∧
    (b.drop 3).take 2 = (fx t.tempMotor .w2 10).bytes ∧
    (b.drop 5).take 4 = (fx t.avgMotorCurrent .w4 1).bytes ∧
    (b.drop 9).take 4 = (fx t.avgInputCurrent .w4 100).bytes ∧
    (b.drop 13).take 4 = (fx t.avgId .w4 1).bytes ∧
    (b.drop 17).take 4 = (fx t.avgIq .w4 1).bytes ∧
    (b.drop 21).take 2 = (fx t.dutyCycleNow .w2 1000).bytes ∧
    (b.drop 23).take 4 = (fx t.rpm .w4 1).bytes ∧
    (b.drop 27).take 2 = (fx t.voltageFiltered .w2 10).bytes ∧
    (b.drop 29).take 4 = (fx t.ampHours .w4 1).bytes ∧
    (b.drop 33).take 4 = (fx t.ampHoursCharged .w4 1).bytes ∧
    (b.drop 37).take 4 = (fx t.wattHours .w4 1).bytes ∧
    (b.drop 41).take 4 = (fx t.wattHoursCharged .w4 1).bytes ∧
    (b.drop 45).take 4 = (fx t.tachometer .w4 1).bytes ∧
    (b.drop 49).take 4 = (fx t.tachometerAbs .w4 1).bytes ∧
    b.drop 53 = [t.id] ∧
    ∀ c, (encodeTelem { t with faultCode := c }).bytes = b

/-- The poll layout of R124. -/
def Obligations.PollFieldsStandAtTheirOffsets : Prop :=
  ∀ p : Poll, ∀ b, b = (encodePoll p).bytes →
    b.take 5 = [p.id, p.floatpkg, p.floatcmd, p.runState, p.fault] ∧
    (b.drop 5).take 1 = (fx p.pitchOrDutyCycle .w1 100).bytes ∧
    (b.drop 6).take 2 = (fx p.rpm .w2 10).bytes ∧
    (b.drop 8).take 2 = (fx p.avgInputCurrent .w2 100).bytes ∧
    (b.drop 10).take 2 = (fx p.inpVoltage .w2 10).bytes ∧
    b.drop 12 = [p.headlightBrightness, p.headlightIdleBrightness, p.statusbarBrightness]

/-- R126: the record's `ovf` is the inclusive-or of its fields', and the overflowing registers are
listed once each in field order. -/
def Obligations.OverflowsAreListedInFieldOrder : Prop :=
  (∀ t : Telem,
    (encodeTelem t).overflowed =
      ([(1, fx t.tempFet .w2 10), (2, fx t.tempMotor .w2 10), (3, fx t.avgMotorCurrent .w4 1),
        (4, fx t.avgInputCurrent .w4 100), (5, fx t.avgId .w4 1), (6, fx t.avgIq .w4 1),
        (7, fx t.dutyCycleNow .w2 1000), (8, fx t.rpm .w4 1), (9, fx t.voltageFiltered .w2 10),
        (10, fx t.ampHours .w4 1), (11, fx t.ampHoursCharged .w4 1), (12, fx t.wattHours .w4 1),
        (13, fx t.wattHoursCharged .w4 1), (14, fx t.tachometer .w4 1),
        (15, fx t.tachometerAbs .w4 1)].filter fun x => x.2.ovf).map Prod.fst ∧
    ((encodeTelem t).ovf = true ↔ (encodeTelem t).overflowed ≠ [])) ∧
  (∀ p : Poll,
    (encodePoll p).overflowed =
      ([(5, fx p.pitchOrDutyCycle .w1 100), (6, fx p.rpm .w2 10), (7, fx p.avgInputCurrent .w2 100),
        (8, fx p.inpVoltage .w2 10)].filter fun x => x.2.ovf).map Prod.fst ∧
    ((encodePoll p).ovf = true ↔ (encodePoll p).overflowed ≠ []))

/-- R122, R125: `ENCTELEM` and `ENCPOLL` complete in every state: they deliver the encoding of the
record as it stands, raise one `FixedPointOverflow` per overflowing field in order, set `FXOVF` if
there is one, and change nothing else. -/
def Obligations.RecordEncodersDeliverTheSnapshot : Prop :=
  ∀ s : State,
    Sys2Proof.Machine.exec .enctelem s =
      .next { s with
        portOut := .encoded (encodeTelem s.telem).bytes (encodeTelem s.telem).ovf
        ev := s.ev ++ (encodeTelem s.telem).overflowed.map fun i => .fixedPointOverflow (.field .telem i)
        status := if (encodeTelem s.telem).ovf then s.status ||| 4#4 else s.status } ∧
    Sys2Proof.Machine.exec .encpoll s =
      .next { s with
        portOut := .encoded (encodePoll s.poll).bytes (encodePoll s.poll).ovf
        ev := s.ev ++ (encodePoll s.poll).overflowed.map fun i => .fixedPointOverflow (.field .poll i)
        status := if (encodePoll s.poll).ovf then s.status ||| 4#4 else s.status }

/-! ## The frame protocol (43_frame_protocol.md) -/

/-- R153: the deframe of a reframe is the payload, with nothing left over. -/
def Obligations.DeframeOfReframeIsThePayload : Prop :=
  ∀ p : List Byte, p.length ≤ 255 → ∃ f, reframe p = some f ∧ deframe f = (.ok p, [])

/-- R149: `REFRAME p` with a payload of at most 255 bytes completes in every state, delivers the start
marker, the length, the payload, the CRC with its high byte first and the end marker, and changes
nothing else; a longer payload is `refuse(payload_too_long)` (R150); its worked examples. -/
def Obligations.ReframeDeliversTheFrame : Prop :=
  (∀ (p : List Byte) (s : State), p.length ≤ 255 →
    Sys2Proof.Machine.exec (.reframe p) s =
      .next { s with
        portOut := .framed
          (0x02 :: BitVec.ofNat 8 p.length :: p ++
            [(crc16 p >>> 8).setWidth 8, (crc16 p).setWidth 8, 0x03]) }) ∧
  (∀ (p : List Byte) (s : State), 255 < p.length →
    Sys2Proof.Machine.exec (.reframe p) s = .refused .payloadTooLong) ∧
  reframe [] = some [0x02, 0x00, 0x00, 0x00, 0x03] ∧
  reframe [0x04] = some [0x02, 0x01, 0x04, 0x40, 0x84, 0x03]

/-- R142: the result and the remainder of a deframe. Bytes before the first start marker are
discarded; a complete candidate frame is judged by its end marker first and then by its CRC; an
input that ends before a frame is complete is `Pending` and all of it is consumed. -/
def Obligations.DeframeFollowsTheSixSteps : Prop :=
  (∀ (junk : List Byte) (len : Byte) (payload : List Byte) (hi lo fin : Byte) (rest : List Byte),
    0x02#8 ∉ junk → payload.length = len.toNat →
    deframe (junk ++ 0x02 :: len :: payload ++ hi :: lo :: fin :: rest) =
      (if fin ≠ 0x03 then .malformed
        else if crc16 payload ≠ hi ++ lo then .crcMismatch (hi ++ lo) (crc16 payload)
        else .ok payload, rest)) ∧
  (∀ junk : List Byte, 0x02#8 ∉ junk → deframe junk = (.pending, [])) ∧
  (∀ junk : List Byte, 0x02#8 ∉ junk → deframe (junk ++ [0x02]) = (.pending, [])) ∧
  (∀ (junk : List Byte) (len : Byte) (part : List Byte), 0x02#8 ∉ junk →
    part.length < len.toNat + 3 → deframe (junk ++ 0x02 :: len :: part) = (.pending, []))

/-- R148: whatever the result, exactly the frame's `L + 5` bytes from its start marker on have been
consumed beside the discarded bytes before it. -/
def Obligations.DeframeConsumesExactlyOneFrame : Prop :=
  ∀ (bytes rest : List Byte) (res : DeframeResult), deframe bytes = (res, rest) → res ≠ .pending →
    ∃ (junk : List Byte) (len : Byte) (body : List Byte),
      bytes = junk ++ (0x02 :: len :: body) ++ rest ∧ 0x02#8 ∉ junk ∧ body.length = len.toNat + 3

/-- `DEFRAME s` completes in every state (R142): it delivers the result and the remainder, raises the
event of a bad frame itself with its flag, and changes nothing else. -/
def Obligations.DeframeDeliversItsResult : Prop :=
  ∀ (bytes : List Byte) (s : State),
    Sys2Proof.Machine.exec (.deframe bytes) s =
      .next
        (match (deframe bytes).1 with
        | .malformed =>
          { s with
            portOut := .deframed .malformed (deframe bytes).2
            ev := s.ev ++ [.malformed], status := s.status ||| 1#4 }
        | .crcMismatch a b =>
          { s with
            portOut := .deframed (.crcMismatch a b) (deframe bytes).2
            ev := s.ev ++ [.crcMismatch a b], status := s.status ||| 2#4 }
        | res => { s with portOut := .deframed res (deframe bytes).2 })

/-- R143, R144: `RxByte` in phases `HUNT` and `LEN`, whenever the turn is the engine's. -/
def Obligations.RxByteHuntsThenTakesTheLength : Prop :=
  ∀ (s : State) (turns : List Action) (b : Byte) (rest : List Byte),
    s.EngineTurn turns → s.halted = false → s.ds = .awaitingFrame → s.rxq = b :: rest →
    (s.rxPhase = .hunt →
      step s = .next
        (if b = 0x02 then { s with agenda := turns, rxq := rest, rxPhase := .len }
        else { s with agenda := turns, rxq := rest })) ∧
    (s.rxPhase = .len →
      step s = .next
        { s with agenda := turns, rxq := rest, rxLen := b, rxCnt := 0, rxPhase := .body })

/-- R145: `RxByte` in phase `BODY` before the frame is complete stores the byte at `rx_buf[rx_cnt]`,
counts it, and leaves every other byte of `rx_buf` as it reads, whenever the turn is the engine's. -/
def Obligations.RxByteStoresTheBodyByte : Prop :=
  ∀ (s : State) (turns : List Action) (b : Byte) (rest : List Byte),
    s.EngineTurn turns → s.halted = false → s.ds = .awaitingFrame → s.rxPhase = .body →
    s.rxq = b :: rest → s.rxCnt + 1 < s.rxLen.toNat + 3 →
    ∃ m : Memory,
      step s = .next { s with agenda := turns, rxq := rest, rxCnt := s.rxCnt + 1, rxBuf := m } ∧
      rxBufRead m s.rxCnt = .ok b ∧ ∀ a, a ≠ s.rxCnt → rxBufRead m a = rxBufRead s.rxBuf a

/-- R146, R147, R179: the step that takes the last byte of a frame judges it, returns the deframer to
`HUNT` in every case, and hands the result over: a payload to the dispatcher, or the event of the
defect and the loop top. Nothing else changes but the popped byte, the count and the buffer's last
byte. It does so whenever the turn is the engine's. -/
def Obligations.LastByteCompletesTheFrame : Prop :=
  ∀ (s : State) (turns : List Action) (payload : List Byte) (hi lo fin : Byte) (rest : List Byte),
    s.EngineTurn turns → s.halted = false → s.ds = .awaitingFrame → s.rxPhase = .body →
    payload.length = s.rxLen.toNat → s.rxCnt = s.rxLen.toNat + 2 → s.rxq = fin :: rest →
    (∀ k < s.rxCnt, s.rxBuf.lookup k = (payload ++ [hi, lo])[k]?) →
    ∃ m : Memory,
      (∀ a, a ≠ s.rxCnt → rxBufRead m a = rxBufRead s.rxBuf a) ∧ rxBufRead m s.rxCnt = .ok fin ∧
      ∀ t, t = { s with
          agenda := turns, rxq := rest, rxCnt := s.rxCnt + 1, rxBuf := m, rxPhase := .hunt } →
        step s = .next
          (if fin ≠ 0x03 then
            { t with ds := .loopTop, ev := s.ev ++ [.malformed], status := s.status ||| 1#4 }
          else if crc16 payload ≠ hi ++ lo then
            { t with
              ds := .loopTop, ev := s.ev ++ [.crcMismatch (hi ++ lo) (crc16 payload)]
              status := s.status ||| 2#4 }
          else { t with ds := .dispatching, rxResult := payload })

/-- R154: the engine's steps and the function agree. From an idle deframer, the engine reading a byte
sequence, with no other agent's turn between, hands over exactly the result `DEFRAME` gives, at the byte at which `DEFRAME` stops, and
nothing before; on `Pending` it consumes everything and hands over nothing. -/
def Obligations.EngineStepsAgreeWithDeframe : Prop :=
  ∀ (s : State) (bytes rest : List Byte) (res : DeframeResult),
    s.agenda = [] → s.halted = false → s.ds = .awaitingFrame → s.rxPhase = .hunt → s.rxq = bytes →
    deframe bytes = (res, rest) →
    (∀ k < bytes.length - rest.length, ∃ t : State,
      Host.Core.run Sys2Proof.core k s = .next t ∧ t.rxq = bytes.drop k ∧ t.ds = .awaitingFrame ∧
      t.ev = s.ev ∧ t.rxResult = s.rxResult) ∧
    ∃ t : State,
      Host.Core.run Sys2Proof.core (bytes.length - rest.length) s = .next t ∧ t.rxq = rest ∧
      t.telem = s.telem ∧ t.poll = s.poll ∧ t.txq = s.txq ∧ t.stop = s.stop ∧
      match res with
      | .ok p => t.ds = .dispatching ∧ t.rxResult = p ∧ t.rxPhase = .hunt ∧ t.ev = s.ev
      | .malformed => t.ds = .loopTop ∧ t.rxPhase = .hunt ∧ t.ev = s.ev ++ [.malformed]
      | .crcMismatch a b => t.ds = .loopTop ∧ t.rxPhase = .hunt ∧ t.ev = s.ev ++ [.crcMismatch a b]
      | .pending => t.ds = .awaitingFrame ∧ t.rxResult = s.rxResult ∧ t.ev = s.ev

/-! ## Command dispatch (44_command_dispatch.md) -/

/-- R172, R173: `GETVALUES` and `POLL` complete in every state: the encoding of the record as it stands
becomes the reply, only the poll reply is fault-injectable, the overflows are raised, and nothing
else changes. -/
def Obligations.AnsweredCommandsPrepareTheReply : Prop :=
  ∀ (tail : List Byte) (s : State),
    Sys2Proof.Machine.exec (.getvalues tail) s =
      .next { s with
        txPayload := (encodeTelem s.telem).bytes, txFi := false, ds := .responding
        ev := s.ev ++ (encodeTelem s.telem).overflowed.map fun i => .fixedPointOverflow (.field .telem i)
        status := if (encodeTelem s.telem).ovf then s.status ||| 4#4 else s.status } ∧
    Sys2Proof.Machine.exec (.poll tail) s =
      .next { s with
        txPayload := (encodePoll s.poll).bytes, txFi := true, ds := .responding
        ev := s.ev ++ (encodePoll s.poll).overflowed.map fun i => .fixedPointOverflow (.field .poll i)
        status := if (encodePoll s.poll).ovf then s.status ||| 4#4 else s.status }

/-- R174, R175: `CHGSTATE` and `LCMDEBUG` complete in every state: they are recorded without a flag, the
engine returns to the loop top, and nothing else changes. -/
def Obligations.RecognisedCommandsAreOnlyRecorded : Prop :=
  ∀ (tail : List Byte) (s : State),
    Sys2Proof.Machine.exec (.chgstate tail) s =
      .next { s with ev := s.ev ++ [.knownNoReply .chgstate], ds := .loopTop } ∧
    Sys2Proof.Machine.exec (.lcmdebug tail) s =
      .next { s with ev := s.ev ++ [.knownNoReply .lcmdebug], ds := .loopTop }

/-- R176: `UNKNOWN` completes in every state: the payload is recorded, `UNKNOWNCMD` is set, the engine
returns to the loop top, and nothing else changes; the payloads its corner cases name are `UNKNOWN`. -/
def Obligations.UnknownCommandIsRecordedWithItsPayload : Prop :=
  (∀ (p : List Byte) (s : State),
    Sys2Proof.Machine.exec (.unknown p) s =
      .next { s with
        ev := s.ev ++ [.unknownCommand p], status := s.status ||| 8#4, ds := .loopTop }) ∧
  (∀ p : List Byte, p ∈ [[], [0x24], [0x24, 0x65]] → classify p = .unknown p) ∧
  (∀ x : Byte, x ∉ [0x18#8, 0x1C#8, 0x63#8] → classify [0x24, 0x65, x] = .unknown [0x24, 0x65, x]) ∧
  (∀ (y : Byte) (tail : List Byte), y ≠ 0x65 →
    classify (0x24 :: y :: tail) = .unknown (0x24 :: y :: tail))

/-- R177: `Respond` appends one whole frame to `TXQ`, with the right CRC since fault injection is absent,
and returns to the loop top, whenever the turn is the engine's. -/
def Obligations.RespondAppendsOneWholeFrame : Prop :=
  ∀ (s : State) (turns : List Action),
    s.EngineTurn turns → s.halted = false → s.ds = .responding → s.txPayload.length ≤ 255 →
    ∃ f, reframe s.txPayload = some f ∧ f.length = s.txPayload.length + 5 ∧
      step s = .next { s with agenda := turns, txq := s.txq ++ f, ds := .loopTop }

/-- The fault-injection variant that R151 specifies for `FI_PRESENT = 1`: only a fault-injectable reply
with `CFG.fi_en` set takes the draws, and a hit replaces the two CRC bytes and nothing else; with
`FI_PRESENT = 0` the reply is never touched. The draws are free values (log 6). -/
def Obligations.FaultInjectionReplacesOnlyTheCrc : Prop :=
  ∀ s : State, s.txPayload.length ≤ 255 →
    (s.cfgFiEn = true → s.txFi = true → ∀ c : Half,
      c = (if Config.fiInject s.draws then Config.fiCrc s.draws else crc16 s.txPayload) →
      respondStep true s =
        .next { s with
          txq := s.txq ++ (0x02 :: BitVec.ofNat 8 s.txPayload.length :: s.txPayload ++
            [(c >>> 8).setWidth 8, c.setWidth 8, 0x03])
          ds := .loopTop, draws := s.draws + 1 }) ∧
    (s.cfgFiEn = false ∨ s.txFi = false → respondStep true s = respondStep false s)

/-- R171: the `LoopTop` step halts the engine if `stop` is set and goes on to await a frame otherwise, and
`stop` is observed nowhere else: a step that halts the engine is a `LoopTop` step with `stop` set, and
it changes nothing but `halted` and the agenda. -/
def Obligations.StopIsSampledAtTheLoopTopOnly : Prop :=
  (∀ (s : State) (turns : List Action),
    s.EngineTurn turns → s.halted = false → s.ds = .loopTop →
    step s = .next
      (if s.stop then { s with agenda := turns, halted := true }
      else { s with agenda := turns, ds := .awaitingFrame })) ∧
  (∀ s t : State, step s = .next t → s.halted = false → t.halted = true →
    s.stop = true ∧ s.ds = .loopTop ∧ t = { s with halted := true, agenda := s.agenda.tail })

/-- Once halted, no engine step is enabled (R24): `RXQ` is not read, nothing is sent, the engine's
latches stand still and it stays halted; only a link failure still touches the deframer (R204). -/
def Obligations.HaltedEngineDoesNothing : Prop :=
  ∀ s t : State, step s = .next t → s.halted = true → (∀ rest, s.agenda ≠ .linkFail :: rest) →
    t.halted = true ∧ t.ds = s.ds ∧ t.rxPhase = s.rxPhase ∧ t.rxLen = s.rxLen ∧ t.rxCnt = s.rxCnt ∧
    t.rxBuf = s.rxBuf ∧ t.rxResult = s.rxResult ∧ t.txPayload = s.txPayload ∧ t.txFi = s.txFi ∧
    s.rxq <+: t.rxq ∧ t.txq <:+ s.txq

/-- R178: `SETSTOP` completes in every state, latches the stop signal and changes nothing else; no step of
any agent withdraws the signal (R24). -/
def Obligations.SetstopLatchesTheStopSignal : Prop :=
  (∀ s : State, Sys2Proof.Machine.exec .setstop s = .next { s with stop := true }) ∧
  (∀ s t : State, step s = .next t → s.stop = true → t.stop = true)

/-- R183: with any telemetry and no other agent's turn between, the request `02 01 04 40 84 03` is answered in eight engine steps by exactly
one frame, whose payload is the encoding of the telemetry. -/
def Obligations.GetvaluesRequestIsAnsweredByTheSnapshot : Prop :=
  ∀ s : State, s.agenda = [] → s.halted = false → s.ds = .awaitingFrame → s.rxPhase = .hunt →
    s.rxq = [0x02, 0x01, 0x04, 0x40, 0x84, 0x03] →
    ∃ t : State, ∃ f : List Byte,
      Host.Core.run Sys2Proof.core 8 s = .next t ∧ t.txq = s.txq ++ f ∧
      deframe f = (.ok (encodeTelem s.telem).bytes, []) ∧ f.length = 59 ∧
      t.rxq = [] ∧ t.ds = .loopTop ∧ t.rxPhase = .hunt ∧ t.telem = s.telem

/-- R181: a good frame in front of `RXQ` is answered by exactly one frame, before a byte of what follows
is read, if its payload is `GETVALUES` or `POLL`, and by nothing otherwise; no other agent's turn
falls between. -/
def Obligations.OneReplyPerAnsweredRequest : Prop :=
  ∀ (s : State) (p f rest : List Byte),
    s.agenda = [] → s.halted = false → s.ds = .awaitingFrame → s.rxPhase = .hunt →
    reframe p = some f → s.rxq = f ++ rest →
    (∀ tail, classify p = .getvalues tail → ∃ t : State, ∃ g,
      Host.Core.run Sys2Proof.core (p.length + 7) s = .next t ∧ t.rxq = rest ∧ t.ds = .loopTop ∧
      reframe (encodeTelem s.telem).bytes = some g ∧ t.txq = s.txq ++ g) ∧
    (∀ tail, classify p = .poll tail → ∃ t : State, ∃ g,
      Host.Core.run Sys2Proof.core (p.length + 7) s = .next t ∧ t.rxq = rest ∧ t.ds = .loopTop ∧
      reframe (encodePoll s.poll).bytes = some g ∧ t.txq = s.txq ++ g) ∧
    ((∀ tail, classify p ≠ .getvalues tail ∧ classify p ≠ .poll tail) → ∃ t : State,
      Host.Core.run Sys2Proof.core (p.length + 6) s = .next t ∧ t.rxq = rest ∧ t.ds = .loopTop ∧
      t.txq = s.txq)

/-! ## The register files and the link (10_state.md, 60_exceptions.md) -/

/-- R13 for `T`: `SETT i, v` with an index and a value of the register's type completes in every state,
writes `T[i]`, leaves every other register of `T` and everything else as it was; otherwise it is
`refuse(bad_field)`. -/
def Obligations.SettWritesOneTelemetryRegister : Prop :=
  ∀ (i : Nat) (v : FieldVal) (s : State),
    (telemValueFits i v = true → ∃ t : Telem,
      Sys2Proof.Machine.exec (.sett i v) s = .next { s with telem := t } ∧
      t.get i = some v ∧ ∀ j, j ≠ i → t.get j = s.telem.get j) ∧
    (telemValueFits i v = false → Sys2Proof.Machine.exec (.sett i v) s = .refused .badField)

/-- R13 for `P`. -/
def Obligations.SetpWritesOnePollRegister : Prop :=
  ∀ (i : Nat) (v : FieldVal) (s : State),
    (pollValueFits i v = true → ∃ p : Poll,
      Sys2Proof.Machine.exec (.setp i v) s = .next { s with poll := p } ∧
      p.get i = some v ∧ ∀ j, j ≠ i → p.get j = s.poll.get j) ∧
    (pollValueFits i v = false → Sys2Proof.Machine.exec (.setp i v) s = .refused .badField)

/-- R17: `LinkPut` appends to the tail of `RXQ`, `LinkTake` removes the head of `TXQ`, and neither changes
anything else of the block; the byte taken is what the link has in hand (the model's own field). -/
def Obligations.LinkMovesOneByteAtAnEndOfAStream : Prop :=
  ∀ (s : State) (rest : List Action),
    (∀ b, s.agenda = .linkPut b :: rest →
      step s = .next { s with agenda := rest, rxq := s.rxq ++ [b] }) ∧
    (∀ b q, s.agenda = .linkTake :: rest → s.txq = b :: q →
      step s = .next { s with agenda := rest, txq := q, linkOut := some b })

/-- R204: `LinkFail` in any state. -/
def Obligations.LinkFailDiscardsTheSession : Prop :=
  ∀ (s : State) (rest : List Action), s.agenda = .linkFail :: rest →
    ∃ t : State, step s = .next t ∧
      t.ev = s.ev ++ [.transportError] ∧ t.status = s.status ∧
      t.rxPhase = .hunt ∧ t.rxLen = 0 ∧ t.rxCnt = 0 ∧ t.ds = .loopTop ∧ t.rxq = [] ∧
      t.txq = s.txq ∧ t.telem = s.telem ∧ t.poll = s.poll ∧ t.cfgFiEn = s.cfgFiEn ∧
      t.stop = s.stop ∧ t.halted = s.halted ∧ t.portOut = s.portOut ∧ t.linkOut = s.linkOut ∧
      t.agenda = rest

/-- While fault injection is absent a write of `CFG.fi_en` is ignored (R23), and a request for garbage
injection is `refuse(fi_garbage)` (R152). -/
def Obligations.FaultInjectionIsAbsent : Prop :=
  ∀ (s : State) (rest : List Action),
    (∀ b, s.agenda = .cfgInput b :: rest → step s = .next { s with agenda := rest }) ∧
    (s.agenda = .fiGarbage :: rest → step s = .refused .fiGarbage)

/-- An agent invokes only its own operations on the local port: the other agent's are refused (R6,
R205). The refusal's name and the order after the reserved selects are the model's (log 10). -/
def Obligations.PortRightsAreEnforced : Prop :=
  ∀ (s : State) (w : PortWord) (rest : List Action),
    (s.agenda = .col w :: rest → 1 ≤ w.op.toNat → w.op.toNat ≤ 8 → step s = .refused .accessRights) ∧
    (s.agenda = .fn w :: rest → 9 ≤ w.op.toNat → w.op.toNat ≤ 11 → step s = .refused .accessRights)

/-! ## The whole machine -/

/-- A step runs the decoded operation: the payload in `rx_result` when the engine dispatches (R180), the
word on the local port when its agent invokes it (R75), with the agenda entry consumed. -/
def Obligations.StepRunsTheDecodedOperation : Prop :=
  (∀ (s : State) (i : Instr), s.halted = false → s.ds = .dispatching →
    decode (.wire s.rxResult) = .ok i → s.agenda = [] → step s = Sys2Proof.Machine.exec i s) ∧
  (∀ (s : State) (i : Instr) (rest : List Action), s.halted = false → s.ds = .dispatching →
    decode (.wire s.rxResult) = .ok i → s.agenda = .eng :: rest →
    step s = Sys2Proof.Machine.exec i { s with agenda := rest }) ∧
  (∀ (s : State) (i : Instr) (w : PortWord) (rest : List Action), decode (.port w) = .ok i →
    (w.op.toNat ≤ 8 ∧ s.agenda = .fn w :: rest) ∨ (9 ≤ w.op.toNat ∧ s.agenda = .col w :: rest) →
    step s = Sys2Proof.Machine.exec i { s with agenda := rest })

/-- The instruction of a table word, placed where the next step reads it, is what that step runs; how
it is placed is the model's (log 20). -/
def Obligations.PlacedTableWordIsWhatRuns : Prop :=
  ∀ (s : State) (nbits w : Nat) (i : Instr), decodeTableWord nbits w = some i →
    (∀ c, tableCode nbits w = .port c → step (s.withFetchWord nbits w) = Sys2Proof.Machine.exec i s) ∧
    (∀ p, tableCode nbits w = .wire p →
      step (s.withFetchWord nbits w) =
        Sys2Proof.Machine.exec i { s with rxResult := p, ds := .dispatching, halted := false })

/-- Every operation whose operands meet its contract completes, in every state. -/
def Obligations.WellFormedOperationsComplete : Prop :=
  ∀ (i : Instr) (s : State), i.wellFormed = true → ∃ t, Sys2Proof.Machine.exec i s = .next t

/-- An engine with no enabled step leaves the state as it is but for its turn (R17, R24, R209); that a turn
without a step passes is the model's choice (log 8). -/
def Obligations.EngineWithoutAStepWaits : Prop :=
  ∀ (s : State) (turns : List Action), s.EngineTurn turns →
    s.halted = true ∨ (s.ds = .awaitingFrame ∧ s.rxq = []) → step s = .next { s with agenda := turns }

/-- R27: the reset state, for every element R27 gives a value. That `+0.0` is the datum of 64 zero bits is
the standard's layout (log 2). -/
def Obligations.ResetIsTheSpecifiedState : Prop :=
  (∀ i, State.reset.telem.get i =
    if i = 0 ∨ i = 16 then some (.u8 0x00) else if i ≤ 15 then some (.fmt F64.zero) else none) ∧
  (∀ i, State.reset.poll.get i =
    if i ≤ 4 ∨ 9 ≤ i ∧ i ≤ 11 then some (.u8 0x00)
    else if i ≤ 8 then some (.fmt F64.zero) else none) ∧
  State.reset.rxq = [] ∧ State.reset.txq = [] ∧ State.reset.rxPhase = .hunt ∧
  State.reset.rxLen = 0 ∧ State.reset.rxCnt = 0 ∧ State.reset.ds = .loopTop ∧
  State.reset.stop = false ∧ State.reset.halted = false ∧ State.reset.status = 0 ∧
  State.reset.cfgFiEn = false ∧ State.reset.ev = [] ∧ F64.zero = 0#64 ∧ realOf F64.zero = 0 ∧ fmtNeg F64.zero = false ∧
  crcTab.foldl (· ^^^ ·) 0 = 0 ∧ (crcTab.map BitVec.toNat).sum = 0x7FFF80

/-- The invariant of the model holds after reset. -/
def Obligations.ResetMeetsTheInvariant : Prop := State.reset.Inv

/-- Every step keeps the invariant, from every state that meets it: the buffer stays in canonical form,
the counted bytes of a partial frame are written and fewer than it needs, a partial frame and a
pending reply stand only where R170 says, the reply is one of the two records (R67), `CFG.fi_en`
stays 0 (R23), and the flags say exactly which events the trace holds (R22). -/
def Obligations.StepKeepsTheInvariant : Prop :=
  ∀ s t : State, s.Inv → step s = .next t → t.Inv

/-- No step faults, and the engine's own steps are never refused, from a state that meets the
invariant: the buffer is never read before it is written (R146) and a reply is never too long
(R150). -/
def Obligations.InvariantStatesNeverFault : Prop :=
  ∀ s : State, s.Inv →
    s.NoFault ∧ (s.agenda = [] ∨ (∃ rest, s.agenda = .eng :: rest) → ∃ t, step s = .next t)

/-- Who writes what (R14, R205): only the collaborator's `SETT`, `SETP` and `SETSTOP` change `T`, `P` and
`stop`. -/
def Obligations.OnlyTheCollaboratorWritesTheRecords : Prop :=
  ∀ s t : State, step s = .next t →
    (t.telem ≠ s.telem → ∃ w rest, s.agenda = .col w :: rest ∧ w.op = 0x9) ∧
    (t.poll ≠ s.poll → ∃ w rest, s.agenda = .col w :: rest ∧ w.op = 0xA) ∧
    (t.stop ≠ s.stop → ∃ w rest, s.agenda = .col w :: rest ∧ w.op = 0xB)

/-- The trace is never shortened (R25) and no flag is ever cleared by a step (R22); a flag that a step sets
is the flag of an event the same step appended (R190). -/
def Obligations.TraceGrowsAndFlagsAreSticky : Prop :=
  ∀ s t : State, step s = .next t →
    ∃ es : List Event, t.ev = s.ev ++ es ∧
      ∀ k < 4, t.status.getLsbD k = (s.status.getLsbD k || es.any fun e => e.flag == some k)

/-- `TXQ` changes only at its ends (R17, R53, R205): the engine appends the whole frame of the pending reply
in `Responding`, or the link removes the head. -/
def Obligations.OutboundStreamChangesOnlyAtItsEnds : Prop :=
  ∀ s t : State, step s = .next t →
    t.txq = s.txq ∨
    (∃ b rest, s.agenda = .linkTake :: rest ∧ s.txq = b :: t.txq) ∨
    (∃ f, s.ds = .responding ∧ s.halted = false ∧ reframe s.txPayload = some f ∧ t.txq = s.txq ++ f ∧
      t.ds = .loopTop)

/-- What no step reads has no effect (R26, 93 U5): two states that agree on everything but the bytes of
`rx_buf` not counted in the frame in progress, `rx_result` outside `Dispatching`, and the reply
latches outside `Responding`, step to states that agree in the same way. -/
def Obligations.UnreadLatchesHaveNoEffect : Prop :=
  ∀ a b t : State, State.SameButUnread a b → step a = .next t →
    ∃ t' : State, step b = .next t' ∧ State.SameButUnread t t'
end

