-- ==== Sys2Proof/Laws/Bytes.lean ====
section
/-! SUPPORT. Byte order (R7, R41): lengths of big-endian sequences, and reading back what was written. -/

namespace Sys2Proof.Machine

@[simp] theorem be_length (n w : Nat) : (be n w).length = w := by
  induction w with
  | zero => rfl
  | succ w ih => simp [be, ih]

theorem be_two (c : Half) : be c.toNat 2 = [(c >>> 8).setWidth 8, c.setWidth 8] := by
  simp only [be]
  congr 1

theorem ube_foldl (s : List Byte) (n : Nat) :
    s.foldl (fun n b => 256 * n + b.toNat) n = 256 ^ s.length * n + ube s := by
  induction s generalizing n with
  | nil => simp [ube]
  | cons b s ih =>
    have hb : ube (b :: s) = 256 ^ s.length * b.toNat + ube s := by
      rw [ube, List.foldl_cons, ih]; simp
    rw [List.foldl_cons, ih, hb, List.length_cons, pow_succ]
    ring

theorem ube_cons (b : Byte) (s : List Byte) : ube (b :: s) = 256 ^ s.length * b.toNat + ube s := by
  rw [ube, List.foldl_cons, ube_foldl]
  simp

/-- `UBE` is the inverse of `BE` (R7). -/
theorem ube_be (n w : Nat) : ube (be n w) = n % 2 ^ (8 * w) := by
  induction w with
  | zero => simp [be, ube, Nat.mod_one]
  | succ w ih =>
    have h256 : (256 : Nat) ^ w = 2 ^ (8 * w) := by rw [show (256 : Nat) = 2 ^ 8 from rfl, ← pow_mul]
    rw [be, ube_cons, ih, be_length, h256, BitVec.toNat_ofNat, Nat.shiftRight_eq_div_pow,
      show 8 * (w + 1) = 8 * w + 8 by ring, pow_add, Nat.mod_mul]
    ring

/-- `sext` reads back what `tc` wrote, within the signed range (R7, R65). -/
theorem sext_tc (N : Nat) (r : Int) (hN : 0 < N) (hlo : -((2 ^ (N - 1) : Nat) : Int) ≤ r)
    (hhi : r ≤ ((2 ^ (N - 1) : Nat) : Int) - 1) : sext N (tc N r) = r := by
  obtain ⟨M, rfl⟩ : ∃ M, N = M + 1 := ⟨N - 1, by omega⟩
  have hp : (2 ^ (M + 1) : Nat) = 2 * 2 ^ M := by rw [pow_succ]; ring
  simp only [Nat.add_sub_cancel] at hlo hhi
  unfold sext tc
  rw [hp, Nat.add_sub_cancel]
  generalize 2 ^ M = K at hlo hhi ⊢
  have hmod : r % ((2 * K : Nat) : Int) = if 0 ≤ r then r else r + 2 * K := by
    split
    · exact Int.emod_eq_of_lt ‹_› (by push_cast; omega)
    · rw [← Int.add_emod_right, Int.emod_eq_of_lt (by push_cast; omega) (by push_cast; omega)]
      push_cast; rfl
  rw [hmod]
  split_ifs <;> omega

end Sys2Proof.Machine
end

