-- ==== Sys2Proof/Laws/FixedPoint.lean ====
section
/-! SUPPORT. The encoders (41_fixed_point.md): what the clamp and `fx` can answer. -/

namespace Sys2Proof.Machine

theorem fxBytes_length (r : Int) (w : FxWidth) : (fxBytes r w).length = w.bytes := be_length _ _

/-- An integer within the range reads back from its bytes. -/
theorem sext_ube_fxBytes (r : Int) (w : FxWidth) (hlo : fxLo w ≤ r) (hhi : r ≤ fxHi w) :
    sext (8 * w.bytes) (ube (fxBytes r w)) = r := by
  have htc : tc (8 * w.bytes) r < 2 ^ (8 * w.bytes) := by
    have h2 : (0 : Int) < ((2 ^ (8 * w.bytes) : Nat) : Int) := by positivity
    have := Int.emod_lt_of_pos r h2
    have := Int.emod_nonneg r h2.ne'
    unfold tc; omega
  rw [fxBytes, ube_be, Nat.mod_eq_of_lt htc]
  exact sext_tc _ r (by cases w <;> decide) hlo hhi

/-- What the clamp can answer (R106). -/
theorem fxClamp_cases (q : Int) (w : FxWidth) :
    (fxHi w < q ∧ fxClamp q w = { bytes := fxBytes (fxHi w) w, ovf := true }) ∨
    (q < fxLo w ∧ fxClamp q w = { bytes := fxBytes (fxLo w) w, ovf := true }) ∨
    (fxLo w ≤ q ∧ q ≤ fxHi w ∧ fxClamp q w = { bytes := fxBytes q w, ovf := false }) := by
  unfold fxClamp
  split_ifs with h1 h2
  · exact .inl ⟨h1, rfl⟩
  · exact .inr (.inl ⟨h2, rfl⟩)
  · exact .inr (.inr ⟨by omega, by omega, rfl⟩)

theorem fxLo_le_fxHi (w : FxWidth) : fxLo w ≤ fxHi w := by cases w <;> decide

/-- The encoder of a finite datum clamps the rounded exact product (R101). -/
theorem fx_of_finite (v : F64) (w : FxWidth) (s : Nat) (h : isFinite v = true) :
    fx v w s = fxClamp (roundToInt (realNum v * s) realDen) w := by
  have h' : fmtExp v ≠ 2047 := by simpa [isFinite] using h
  simp [fx, isNaN, isInf, h']

/-- Every output of `fx` is the bytes of some integer of the width. -/
theorem fx_bytes_eq (v : F64) (w : FxWidth) (s : Nat) : ∃ r, (fx v w s).bytes = fxBytes r w := by
  unfold fx
  split_ifs
  · exact ⟨_, rfl⟩
  · exact ⟨_, rfl⟩
  · exact ⟨_, rfl⟩
  · rcases fxClamp_cases (roundToInt (realNum v * s) realDen) w with ⟨-, h⟩ | ⟨-, h⟩ | ⟨-, -, h⟩ <;>
      exact ⟨_, by rw [h]⟩

/-- `fx` outputs exactly `w` bytes (R101). -/
theorem fx_bytes_length (v : F64) (w : FxWidth) (s : Nat) : (fx v w s).bytes.length = w.bytes := by
  obtain ⟨r, h⟩ := fx_bytes_eq v w s
  rw [h, fxBytes_length]

end Sys2Proof.Machine
end

