-- ==== Sys2Proof/Laws/Frame.lean ====
section
/-! SUPPORT. Frames (43_frame_protocol.md): what framing answers, and how a candidate frame is judged. -/

namespace Sys2Proof.Machine

/-- The CRC field, high byte first (R64). -/
theorem crcBytes_eq (c : Half) : crcBytes c = [(c >>> 8).setWidth 8, c.setWidth 8] := be_two c

/-- Framing answers exactly for payloads of at most 255 bytes (R149, R150). -/
theorem frameWith_eq_some_iff (c : Half) (p f : List Byte) :
    frameWith c p = some f ↔
      p.length ≤ 255 ∧
        f = 0x02 :: BitVec.ofNat 8 p.length :: p ++ [(c >>> 8).setWidth 8, c.setWidth 8, 0x03] := by
  unfold frameWith
  rw [crcBytes_eq]
  split_ifs with h
  · simp only [Option.some.injEq]
    constructor
    · rintro rfl; exact ⟨h, by simp [Config.startMarker, Config.endMarker]⟩
    · rintro ⟨-, rfl⟩; simp [Config.startMarker, Config.endMarker]
  · simp only [reduceCtorEq, false_iff, not_and]
    exact fun h' => absurd h' h

theorem crc16_append (a b : List Byte) : crc16 (a ++ b) = b.foldl crcStep (crc16 a) :=
  List.foldl_append ..

/-- `UBE` of two bytes as a `u16` is their concatenation (R64). -/
theorem ofNat_ube_two (hi lo : Byte) : BitVec.ofNat 16 (ube [hi, lo]) = hi ++ lo := by
  apply BitVec.eq_of_toNat_eq
  have := hi.isLt
  have := lo.isLt
  rw [BitVec.toNat_ofNat, BitVec.toNat_append, ← Nat.shiftLeft_add_eq_or_of_lt lo.isLt]
  simp only [ube, List.foldl_cons, List.foldl_nil, Nat.shiftLeft_eq]
  omega

/-- How a candidate frame is judged, its parts named (R146, R147). -/
theorem checkBody_parts (payload : List Byte) (hi lo fin : Byte) :
    checkBody payload.length (payload ++ [hi, lo, fin]) =
      if fin ≠ 0x03 then .malformed
      else if crc16 payload ≠ hi ++ lo then .crcMismatch (hi ++ lo) (crc16 payload)
      else .ok payload := by
  have h1 : (payload ++ [hi, lo, fin]).getD (payload.length + 2) 0 = fin := by
    simp [List.getD, List.getElem?_append_right]
  have h2 : (payload ++ [hi, lo, fin]).take payload.length = payload := by simp
  have h3 : ((payload ++ [hi, lo, fin]).drop payload.length).take 2 = [hi, lo] := by simp
  simp only [checkBody, h1, h2, h3, ofNat_ube_two, Config.endMarker]

/-- A verdict is never `Pending`. -/
theorem checkBody_ne_pending (L : Nat) (body : List Byte) : checkBody L body ≠ .pending := by
  unfold checkBody
  simp only
  split_ifs <;> simp

/-- An accepted payload has the declared length. -/
theorem checkBody_ok_length (L : Nat) (body p : List Byte) (hb : body.length = L + 3)
    (h : checkBody L body = .ok p) : p.length = L := by
  unfold checkBody at h
  simp only at h
  split_ifs at h
  cases h
  simp [hb]

end Sys2Proof.Machine
end

