-- ==== Sys2Proof/Laws/Memory.lean ====
section
/-! SUPPORT. The RX buffer (R18, R40): reading after writing, the canonical form, and what each access
can answer. -/

namespace Sys2Proof.Machine

@[simp] theorem Memory.lookup_insert_self (m : Memory) (a : Nat) (b : Byte) :
    (m.insert a b).lookup a = some b := by
  induction m with
  | nil => simp [Memory.insert, Memory.lookup]
  | cons c m ih =>
    obtain ⟨x, y⟩ := c
    simp only [Memory.insert]
    split_ifs with h1 h2
    · simp [Memory.lookup]
    · simp [Memory.lookup]
    · simp [Memory.lookup, h2, ih]

theorem Memory.lookup_insert_ne (m : Memory) (a k : Nat) (b : Byte) (h : k ≠ a) :
    (m.insert a b).lookup k = m.lookup k := by
  induction m with
  | nil => simp [Memory.insert, Memory.lookup, h]
  | cons c m ih =>
    obtain ⟨x, y⟩ := c
    simp only [Memory.insert]
    split_ifs with h1 h2
    · simp [Memory.lookup, h]
    · subst h2; simp [Memory.lookup, h]
    · simp [Memory.lookup, ih]

theorem Memory.mem_insert (m : Memory) (a : Nat) (b : Byte) (c : Host.Cell)
    (h : c ∈ m.insert a b) : c = (a, b) ∨ c ∈ m := by
  induction m with
  | nil => simpa [Memory.insert] using h
  | cons d m ih =>
    obtain ⟨x, y⟩ := d
    simp only [Memory.insert] at h
    split_ifs at h <;> simp only [List.mem_cons] at h ⊢ <;> tauto

/-- A write at an address that exists keeps the canonical form. -/
theorem Memory.insert_wf (m : Memory) (a : Nat) (b : Byte) (hm : m.wf) (ha : a < Config.rxBufSize) :
    (m.insert a b).wf := by
  refine ⟨?_, fun c hc => ?_⟩
  · obtain ⟨hp, -⟩ := hm
    induction m with
    | nil => simp [Memory.insert]
    | cons d m ih =>
      obtain ⟨x, y⟩ := d
      rw [List.pairwise_cons] at hp
      simp only [Memory.insert]
      split_ifs with h1 h2
      · refine List.pairwise_cons.2 ⟨fun c hc => ?_, List.pairwise_cons.2 hp⟩
        rcases List.mem_cons.1 hc with rfl | hc
        · exact h1
        · exact lt_trans h1 (hp.1 c hc)
      · subst h2; exact List.pairwise_cons.2 ⟨hp.1, hp.2⟩
      · refine List.pairwise_cons.2 ⟨fun c hc => ?_, ih hp.2⟩
        rcases Memory.mem_insert m a b c hc with rfl | hc
        · show x < a; omega
        · exact hp.1 c hc
  · rcases Memory.mem_insert m a b c hc with rfl | hc
    · exact ha
    · exact hm.2 c hc

/-- The store with nothing written is canonical: the buffer after reset and after a link failure. -/
theorem Memory.nil_wf : Memory.wf [] := by simp [Memory.wf]

/-- The buffer of the reset state is in canonical form. -/
theorem reset_rxBuf_wf : State.reset.rxBuf.wf := Memory.nil_wf

/-- A write answers exactly at the addresses that exist. -/
theorem rxBufWrite_ok_iff (m m' : Memory) (a : Nat) (b : Byte) :
    rxBufWrite m a b = .ok m' ↔ a < Config.rxBufSize ∧ m' = m.insert a b := by
  unfold rxBufWrite
  split_ifs with h <;> simp [h, eq_comm]

/-- Every write that answers keeps the canonical form. -/
theorem rxBufWrite_wf (m m' : Memory) (a : Nat) (b : Byte) (hm : m.wf)
    (h : rxBufWrite m a b = .ok m') : m'.wf := by
  obtain ⟨ha, rfl⟩ := (rxBufWrite_ok_iff m m' a b).1 h
  exact m.insert_wf a b hm ha

/-- A read answers exactly the written bytes at addresses that exist. -/
theorem rxBufRead_ok_iff (m : Memory) (a : Nat) (b : Byte) :
    rxBufRead m a = .ok b ↔ a < Config.rxBufSize ∧ m.lookup a = some b := by
  unfold rxBufRead
  split_ifs with h
  · cases hl : m.lookup a <;> simp [h]
  · simp [h]

/-- What a byte reads as after a write to another address. -/
theorem rxBufRead_insert_ne (m : Memory) (a k : Nat) (b : Byte) (h : k ≠ a) :
    rxBufRead (m.insert a b) k = rxBufRead m k := by
  unfold rxBufRead
  rw [Memory.lookup_insert_ne m a k b h]

/-- What the written byte reads as. -/
theorem rxBufRead_insert_self (m : Memory) (a : Nat) (b : Byte) (h : a < Config.rxBufSize) :
    rxBufRead (m.insert a b) a = .ok b := by
  rw [rxBufRead_ok_iff]; exact ⟨h, m.lookup_insert_self a b⟩

/-- A slice of written bytes at addresses that exist is read whole. -/
theorem rxBufSlice_eq_ok (m : Memory) (bs : List Byte) (a : Nat) (ha : a + bs.length ≤ Config.rxBufSize)
    (h : ∀ k < bs.length, m.lookup (a + k) = bs[k]?) : rxBufSlice m a bs.length = .ok bs := by
  induction bs generalizing a with
  | nil => rfl
  | cons b bs ih =>
    have h0 : rxBufRead m a = .ok b := by
      rw [rxBufRead_ok_iff]
      exact ⟨by simp at ha; omega, by simpa using h 0 (by simp)⟩
    have ih' := ih (a + 1) (by simp at ha; omega) fun k hk => by
      have := h (k + 1) (by simpa using hk)
      simpa [Nat.add_assoc, Nat.add_comm 1 k] using this
    simp [rxBufSlice, h0, ih']

/-- A slice depends on nothing but the bytes it reads. -/
theorem rxBufSlice_congr (m m' : Memory) (a n : Nat)
    (h : ∀ k, a ≤ k → k < a + n → m'.lookup k = m.lookup k) : rxBufSlice m' a n = rxBufSlice m a n := by
  induction n generalizing a with
  | zero => rfl
  | succ n ih =>
    have h0 : rxBufRead m' a = rxBufRead m a := by
      unfold rxBufRead; rw [h a le_rfl (by omega)]
    simp only [rxBufSlice, h0, ih (a + 1) fun k h1 h2 => h k (by omega) (by omega)]

/-- A slice that answers has the length asked for. -/
theorem rxBufSlice_length (m : Memory) (a n : Nat) (bs : List Byte) (h : rxBufSlice m a n = .ok bs) :
    bs.length = n := by
  induction n generalizing a bs with
  | zero => simp only [rxBufSlice, Except.ok.injEq] at h; simp [← h]
  | succ n ih =>
    simp only [rxBufSlice] at h
    split at h
    · cases h
    · split at h
      · cases h
      · cases h; simp [ih _ _ ‹_›]

/-- A slice whose bytes are all written, at addresses that exist, answers. -/
theorem rxBufSlice_isOk (m : Memory) (a n : Nat) (ha : a + n ≤ Config.rxBufSize)
    (h : ∀ k, a ≤ k → k < a + n → (m.lookup k).isSome) : ∃ bs, rxBufSlice m a n = .ok bs := by
  induction n generalizing a with
  | zero => exact ⟨[], rfl⟩
  | succ n ih =>
    obtain ⟨b, hb⟩ := Option.isSome_iff_exists.1 (h a le_rfl (by omega))
    obtain ⟨bs, hbs⟩ := ih (a + 1) (by omega) fun k h1 h2 => h k (by omega) (by omega)
    exact ⟨b :: bs, by simp [rxBufSlice, (rxBufRead_ok_iff m a b).2 ⟨by omega, hb⟩, hbs]⟩

end Sys2Proof.Machine
end

