-- ==== Sys2Proof/Laws/PerInstr.lean ====
section
/-! SUPPORT. The family `WordPlace`: an operation's word is a wire payload exactly when no agent of the
local port may invoke it, and a port word's select is one that is not reserved (R70, R75, R76). -/

namespace Sys2Proof.Laws.WordPlace

open Sys2Proof.Machine

def Statement (i : Instr) : Prop :=
  match encode i with
  | .wire _ => Instr.portAgent i = none
  | .port w => Instr.portAgent i ≠ none ∧ 1 ≤ w.op.toNat ∧ w.op.toNat ≤ 11

theorem getvalues (tail : List Byte) : Statement (.getvalues tail) := rfl
theorem poll (tail : List Byte) : Statement (.poll tail) := rfl
theorem chgstate (tail : List Byte) : Statement (.chgstate tail) := rfl
theorem lcmdebug (tail : List Byte) : Statement (.lcmdebug tail) := rfl
theorem unknown (p : List Byte) : Statement (.unknown p) := rfl
theorem crc16 (s : List Byte) : Statement (.crc16 s) := by simp [Statement, encode, PortWord.ofOp, Instr.portAgent]
theorem encfx8 (v : F64) (scale : Half) : Statement (.encfx8 v scale) := by
  simp [Statement, encode, PortWord.ofOp, Instr.portAgent]
theorem encfx16 (v : F64) (scale : Half) : Statement (.encfx16 v scale) := by
  simp [Statement, encode, PortWord.ofOp, Instr.portAgent]
theorem encfx32 (v : F64) (scale : Half) : Statement (.encfx32 v scale) := by
  simp [Statement, encode, PortWord.ofOp, Instr.portAgent]
theorem enctelem : Statement .enctelem := by simp [Statement, encode, PortWord.ofOp, Instr.portAgent]
theorem encpoll : Statement .encpoll := by simp [Statement, encode, PortWord.ofOp, Instr.portAgent]
theorem reframe (p : List Byte) : Statement (.reframe p) := by
  simp [Statement, encode, PortWord.ofOp, Instr.portAgent]
theorem deframe (s : List Byte) : Statement (.deframe s) := by
  simp [Statement, encode, PortWord.ofOp, Instr.portAgent]
theorem sett (i : Nat) (v : FieldVal) : Statement (.sett i v) := by
  simp [Statement, encode, PortWord.ofOp, Instr.portAgent]
theorem setp (i : Nat) (v : FieldVal) : Statement (.setp i v) := by
  simp [Statement, encode, PortWord.ofOp, Instr.portAgent]
theorem setstop : Statement .setstop := by simp [Statement, encode, PortWord.ofOp, Instr.portAgent]

end Sys2Proof.Laws.WordPlace
end

