-- ==== Sys2Proof/Laws/State.lean ====
section
/-! SUPPORT. One simp lemma per field of State per named update, so that no later proof unfolds a record
update. -/

namespace Sys2Proof.Machine

/-! `raise` (R190). -/

@[simp] theorem raise_telem (e : Event) (s : State) : (raise e s).telem = s.telem := rfl
@[simp] theorem raise_poll (e : Event) (s : State) : (raise e s).poll = s.poll := rfl
@[simp] theorem raise_rxq (e : Event) (s : State) : (raise e s).rxq = s.rxq := rfl
@[simp] theorem raise_txq (e : Event) (s : State) : (raise e s).txq = s.txq := rfl
@[simp] theorem raise_rxPhase (e : Event) (s : State) : (raise e s).rxPhase = s.rxPhase := rfl
@[simp] theorem raise_rxLen (e : Event) (s : State) : (raise e s).rxLen = s.rxLen := rfl
@[simp] theorem raise_rxCnt (e : Event) (s : State) : (raise e s).rxCnt = s.rxCnt := rfl
@[simp] theorem raise_rxBuf (e : Event) (s : State) : (raise e s).rxBuf = s.rxBuf := rfl
@[simp] theorem raise_ds (e : Event) (s : State) : (raise e s).ds = s.ds := rfl
@[simp] theorem raise_rxResult (e : Event) (s : State) : (raise e s).rxResult = s.rxResult := rfl
@[simp] theorem raise_txPayload (e : Event) (s : State) : (raise e s).txPayload = s.txPayload := rfl
@[simp] theorem raise_txFi (e : Event) (s : State) : (raise e s).txFi = s.txFi := rfl
@[simp] theorem raise_stop (e : Event) (s : State) : (raise e s).stop = s.stop := rfl
@[simp] theorem raise_halted (e : Event) (s : State) : (raise e s).halted = s.halted := rfl
@[simp] theorem raise_status (e : Event) (s : State) : (raise e s).status = setFlag s.status e := rfl
@[simp] theorem raise_cfgFiEn (e : Event) (s : State) : (raise e s).cfgFiEn = s.cfgFiEn := rfl
@[simp] theorem raise_ev (e : Event) (s : State) : (raise e s).ev = s.ev ++ [e] := rfl
@[simp] theorem raise_agenda (e : Event) (s : State) : (raise e s).agenda = s.agenda := rfl
@[simp] theorem raise_portOut (e : Event) (s : State) : (raise e s).portOut = s.portOut := rfl
@[simp] theorem raise_linkOut (e : Event) (s : State) : (raise e s).linkOut = s.linkOut := rfl
@[simp] theorem raise_draws (e : Event) (s : State) : (raise e s).draws = s.draws := rfl

/-! `dropFrame` (R201). -/

@[simp] theorem dropFrame_telem (e : Event) (s : State) : (dropFrame e s).telem = s.telem := rfl
@[simp] theorem dropFrame_poll (e : Event) (s : State) : (dropFrame e s).poll = s.poll := rfl
@[simp] theorem dropFrame_rxq (e : Event) (s : State) : (dropFrame e s).rxq = s.rxq := rfl
@[simp] theorem dropFrame_txq (e : Event) (s : State) : (dropFrame e s).txq = s.txq := rfl
@[simp] theorem dropFrame_rxPhase (e : Event) (s : State) : (dropFrame e s).rxPhase = s.rxPhase := rfl
@[simp] theorem dropFrame_rxLen (e : Event) (s : State) : (dropFrame e s).rxLen = s.rxLen := rfl
@[simp] theorem dropFrame_rxCnt (e : Event) (s : State) : (dropFrame e s).rxCnt = s.rxCnt := rfl
@[simp] theorem dropFrame_rxBuf (e : Event) (s : State) : (dropFrame e s).rxBuf = s.rxBuf := rfl
@[simp] theorem dropFrame_ds (e : Event) (s : State) : (dropFrame e s).ds = .loopTop := rfl
@[simp] theorem dropFrame_rxResult (e : Event) (s : State) : (dropFrame e s).rxResult = s.rxResult := rfl
@[simp] theorem dropFrame_txPayload (e : Event) (s : State) : (dropFrame e s).txPayload = s.txPayload := rfl
@[simp] theorem dropFrame_txFi (e : Event) (s : State) : (dropFrame e s).txFi = s.txFi := rfl
@[simp] theorem dropFrame_stop (e : Event) (s : State) : (dropFrame e s).stop = s.stop := rfl
@[simp] theorem dropFrame_halted (e : Event) (s : State) : (dropFrame e s).halted = s.halted := rfl
@[simp] theorem dropFrame_status (e : Event) (s : State) : (dropFrame e s).status = setFlag s.status e := rfl
@[simp] theorem dropFrame_cfgFiEn (e : Event) (s : State) : (dropFrame e s).cfgFiEn = s.cfgFiEn := rfl
@[simp] theorem dropFrame_ev (e : Event) (s : State) : (dropFrame e s).ev = s.ev ++ [e] := rfl
@[simp] theorem dropFrame_agenda (e : Event) (s : State) : (dropFrame e s).agenda = s.agenda := rfl
@[simp] theorem dropFrame_portOut (e : Event) (s : State) : (dropFrame e s).portOut = s.portOut := rfl
@[simp] theorem dropFrame_linkOut (e : Event) (s : State) : (dropFrame e s).linkOut = s.linkOut := rfl
@[simp] theorem dropFrame_draws (e : Event) (s : State) : (dropFrame e s).draws = s.draws := rfl

/-! `handReply` (R172, R173). -/

@[simp] theorem handReply_telem (p : List Byte) (fi : Bool) (s : State) : (handReply p fi s).telem = s.telem := rfl
@[simp] theorem handReply_poll (p : List Byte) (fi : Bool) (s : State) : (handReply p fi s).poll = s.poll := rfl
@[simp] theorem handReply_rxq (p : List Byte) (fi : Bool) (s : State) : (handReply p fi s).rxq = s.rxq := rfl
@[simp] theorem handReply_txq (p : List Byte) (fi : Bool) (s : State) : (handReply p fi s).txq = s.txq := rfl
@[simp] theorem handReply_rxPhase (p : List Byte) (fi : Bool) (s : State) : (handReply p fi s).rxPhase = s.rxPhase := rfl
@[simp] theorem handReply_rxLen (p : List Byte) (fi : Bool) (s : State) : (handReply p fi s).rxLen = s.rxLen := rfl
@[simp] theorem handReply_rxCnt (p : List Byte) (fi : Bool) (s : State) : (handReply p fi s).rxCnt = s.rxCnt := rfl
@[simp] theorem handReply_rxBuf (p : List Byte) (fi : Bool) (s : State) : (handReply p fi s).rxBuf = s.rxBuf := rfl
@[simp] theorem handReply_ds (p : List Byte) (fi : Bool) (s : State) : (handReply p fi s).ds = .responding := rfl
@[simp] theorem handReply_rxResult (p : List Byte) (fi : Bool) (s : State) : (handReply p fi s).rxResult = s.rxResult := rfl
@[simp] theorem handReply_txPayload (p : List Byte) (fi : Bool) (s : State) : (handReply p fi s).txPayload = p := rfl
@[simp] theorem handReply_txFi (p : List Byte) (fi : Bool) (s : State) : (handReply p fi s).txFi = fi := rfl
@[simp] theorem handReply_stop (p : List Byte) (fi : Bool) (s : State) : (handReply p fi s).stop = s.stop := rfl
@[simp] theorem handReply_halted (p : List Byte) (fi : Bool) (s : State) : (handReply p fi s).halted = s.halted := rfl
@[simp] theorem handReply_status (p : List Byte) (fi : Bool) (s : State) : (handReply p fi s).status = s.status := rfl
@[simp] theorem handReply_cfgFiEn (p : List Byte) (fi : Bool) (s : State) : (handReply p fi s).cfgFiEn = s.cfgFiEn := rfl
@[simp] theorem handReply_ev (p : List Byte) (fi : Bool) (s : State) : (handReply p fi s).ev = s.ev := rfl
@[simp] theorem handReply_agenda (p : List Byte) (fi : Bool) (s : State) : (handReply p fi s).agenda = s.agenda := rfl
@[simp] theorem handReply_portOut (p : List Byte) (fi : Bool) (s : State) : (handReply p fi s).portOut = s.portOut := rfl
@[simp] theorem handReply_linkOut (p : List Byte) (fi : Bool) (s : State) : (handReply p fi s).linkOut = s.linkOut := rfl
@[simp] theorem handReply_draws (p : List Byte) (fi : Bool) (s : State) : (handReply p fi s).draws = s.draws := rfl

/-! `deliver` (R75). -/

@[simp] theorem deliver_telem (r : PortOut) (s : State) : (deliver r s).telem = s.telem := rfl
@[simp] theorem deliver_poll (r : PortOut) (s : State) : (deliver r s).poll = s.poll := rfl
@[simp] theorem deliver_rxq (r : PortOut) (s : State) : (deliver r s).rxq = s.rxq := rfl
@[simp] theorem deliver_txq (r : PortOut) (s : State) : (deliver r s).txq = s.txq := rfl
@[simp] theorem deliver_rxPhase (r : PortOut) (s : State) : (deliver r s).rxPhase = s.rxPhase := rfl
@[simp] theorem deliver_rxLen (r : PortOut) (s : State) : (deliver r s).rxLen = s.rxLen := rfl
@[simp] theorem deliver_rxCnt (r : PortOut) (s : State) : (deliver r s).rxCnt = s.rxCnt := rfl
@[simp] theorem deliver_rxBuf (r : PortOut) (s : State) : (deliver r s).rxBuf = s.rxBuf := rfl
@[simp] theorem deliver_ds (r : PortOut) (s : State) : (deliver r s).ds = s.ds := rfl
@[simp] theorem deliver_rxResult (r : PortOut) (s : State) : (deliver r s).rxResult = s.rxResult := rfl
@[simp] theorem deliver_txPayload (r : PortOut) (s : State) : (deliver r s).txPayload = s.txPayload := rfl
@[simp] theorem deliver_txFi (r : PortOut) (s : State) : (deliver r s).txFi = s.txFi := rfl
@[simp] theorem deliver_stop (r : PortOut) (s : State) : (deliver r s).stop = s.stop := rfl
@[simp] theorem deliver_halted (r : PortOut) (s : State) : (deliver r s).halted = s.halted := rfl
@[simp] theorem deliver_status (r : PortOut) (s : State) : (deliver r s).status = s.status := rfl
@[simp] theorem deliver_cfgFiEn (r : PortOut) (s : State) : (deliver r s).cfgFiEn = s.cfgFiEn := rfl
@[simp] theorem deliver_ev (r : PortOut) (s : State) : (deliver r s).ev = s.ev := rfl
@[simp] theorem deliver_agenda (r : PortOut) (s : State) : (deliver r s).agenda = s.agenda := rfl
@[simp] theorem deliver_portOut (r : PortOut) (s : State) : (deliver r s).portOut = r := rfl
@[simp] theorem deliver_linkOut (r : PortOut) (s : State) : (deliver r s).linkOut = s.linkOut := rfl
@[simp] theorem deliver_draws (r : PortOut) (s : State) : (deliver r s).draws = s.draws := rfl

/-! `LinkPut` (R17). -/

@[simp] theorem linkPutStep_telem (b : Byte) (s : State) : (linkPutStep b s).telem = s.telem := rfl
@[simp] theorem linkPutStep_poll (b : Byte) (s : State) : (linkPutStep b s).poll = s.poll := rfl
@[simp] theorem linkPutStep_rxq (b : Byte) (s : State) : (linkPutStep b s).rxq = s.rxq ++ [b] := rfl
@[simp] theorem linkPutStep_txq (b : Byte) (s : State) : (linkPutStep b s).txq = s.txq := rfl
@[simp] theorem linkPutStep_rxPhase (b : Byte) (s : State) : (linkPutStep b s).rxPhase = s.rxPhase := rfl
@[simp] theorem linkPutStep_rxLen (b : Byte) (s : State) : (linkPutStep b s).rxLen = s.rxLen := rfl
@[simp] theorem linkPutStep_rxCnt (b : Byte) (s : State) : (linkPutStep b s).rxCnt = s.rxCnt := rfl
@[simp] theorem linkPutStep_rxBuf (b : Byte) (s : State) : (linkPutStep b s).rxBuf = s.rxBuf := rfl
@[simp] theorem linkPutStep_ds (b : Byte) (s : State) : (linkPutStep b s).ds = s.ds := rfl
@[simp] theorem linkPutStep_rxResult (b : Byte) (s : State) : (linkPutStep b s).rxResult = s.rxResult := rfl
@[simp] theorem linkPutStep_txPayload (b : Byte) (s : State) : (linkPutStep b s).txPayload = s.txPayload := rfl
@[simp] theorem linkPutStep_txFi (b : Byte) (s : State) : (linkPutStep b s).txFi = s.txFi := rfl
@[simp] theorem linkPutStep_stop (b : Byte) (s : State) : (linkPutStep b s).stop = s.stop := rfl
@[simp] theorem linkPutStep_halted (b : Byte) (s : State) : (linkPutStep b s).halted = s.halted := rfl
@[simp] theorem linkPutStep_status (b : Byte) (s : State) : (linkPutStep b s).status = s.status := rfl
@[simp] theorem linkPutStep_cfgFiEn (b : Byte) (s : State) : (linkPutStep b s).cfgFiEn = s.cfgFiEn := rfl
@[simp] theorem linkPutStep_ev (b : Byte) (s : State) : (linkPutStep b s).ev = s.ev := rfl
@[simp] theorem linkPutStep_agenda (b : Byte) (s : State) : (linkPutStep b s).agenda = s.agenda := rfl
@[simp] theorem linkPutStep_portOut (b : Byte) (s : State) : (linkPutStep b s).portOut = s.portOut := rfl
@[simp] theorem linkPutStep_linkOut (b : Byte) (s : State) : (linkPutStep b s).linkOut = s.linkOut := rfl
@[simp] theorem linkPutStep_draws (b : Byte) (s : State) : (linkPutStep b s).draws = s.draws := rfl

/-! `LinkFail` (R204). -/

@[simp] theorem linkFailStep_telem (s : State) : (linkFailStep s).telem = s.telem := rfl
@[simp] theorem linkFailStep_poll (s : State) : (linkFailStep s).poll = s.poll := rfl
@[simp] theorem linkFailStep_rxq (s : State) : (linkFailStep s).rxq = [] := rfl
@[simp] theorem linkFailStep_txq (s : State) : (linkFailStep s).txq = s.txq := rfl
@[simp] theorem linkFailStep_rxPhase (s : State) : (linkFailStep s).rxPhase = .hunt := rfl
@[simp] theorem linkFailStep_rxLen (s : State) : (linkFailStep s).rxLen = 0 := rfl
@[simp] theorem linkFailStep_rxCnt (s : State) : (linkFailStep s).rxCnt = 0 := rfl
@[simp] theorem linkFailStep_rxBuf (s : State) : (linkFailStep s).rxBuf = [] := rfl
@[simp] theorem linkFailStep_ds (s : State) : (linkFailStep s).ds = .loopTop := rfl
@[simp] theorem linkFailStep_rxResult (s : State) : (linkFailStep s).rxResult = freeLatch s.draws := rfl
@[simp] theorem linkFailStep_txPayload (s : State) : (linkFailStep s).txPayload = freeLatch (s.draws + 1) := rfl
@[simp] theorem linkFailStep_txFi (s : State) : (linkFailStep s).txFi = Config.freeBit s.draws := rfl
@[simp] theorem linkFailStep_stop (s : State) : (linkFailStep s).stop = s.stop := rfl
@[simp] theorem linkFailStep_halted (s : State) : (linkFailStep s).halted = s.halted := rfl
@[simp] theorem linkFailStep_status (s : State) : (linkFailStep s).status = setFlag s.status .transportError := rfl
@[simp] theorem linkFailStep_cfgFiEn (s : State) : (linkFailStep s).cfgFiEn = s.cfgFiEn := rfl
@[simp] theorem linkFailStep_ev (s : State) : (linkFailStep s).ev = s.ev ++ [.transportError] := rfl
@[simp] theorem linkFailStep_agenda (s : State) : (linkFailStep s).agenda = s.agenda := rfl
@[simp] theorem linkFailStep_portOut (s : State) : (linkFailStep s).portOut = s.portOut := rfl
@[simp] theorem linkFailStep_linkOut (s : State) : (linkFailStep s).linkOut = s.linkOut := rfl
@[simp] theorem linkFailStep_draws (s : State) : (linkFailStep s).draws = s.draws + 2 := rfl

/-! `raiseAll`. -/

@[simp] theorem raiseAll_nil (s : State) : raiseAll [] s = s := rfl
@[simp] theorem raiseAll_cons (e : Event) (es : List Event) (s : State) :
    raiseAll (e :: es) s = raiseAll es (raise e s) := rfl

/-- What raising events in order can do: it appends them to the trace, sets their flags, and changes
nothing else. -/
theorem raiseAll_eq (es : List Event) (s : State) :
    raiseAll es s = { s with ev := s.ev ++ es, status := es.foldl setFlag s.status } := by
  induction es generalizing s with
  | nil => simp [raiseAll]
  | cons e es ih => simp [ih, raise]

@[simp] theorem raiseAll_telem (es : List Event) (s : State) :
    (raiseAll es s).telem = s.telem := by rw [raiseAll_eq]
@[simp] theorem raiseAll_poll (es : List Event) (s : State) :
    (raiseAll es s).poll = s.poll := by rw [raiseAll_eq]
@[simp] theorem raiseAll_rxq (es : List Event) (s : State) :
    (raiseAll es s).rxq = s.rxq := by rw [raiseAll_eq]
@[simp] theorem raiseAll_txq (es : List Event) (s : State) :
    (raiseAll es s).txq = s.txq := by rw [raiseAll_eq]
@[simp] theorem raiseAll_rxPhase (es : List Event) (s : State) :
    (raiseAll es s).rxPhase = s.rxPhase := by rw [raiseAll_eq]
@[simp] theorem raiseAll_rxLen (es : List Event) (s : State) :
    (raiseAll es s).rxLen = s.rxLen := by rw [raiseAll_eq]
@[simp] theorem raiseAll_rxCnt (es : List Event) (s : State) :
    (raiseAll es s).rxCnt = s.rxCnt := by rw [raiseAll_eq]
@[simp] theorem raiseAll_rxBuf (es : List Event) (s : State) :
    (raiseAll es s).rxBuf = s.rxBuf := by rw [raiseAll_eq]
@[simp] theorem raiseAll_ds (es : List Event) (s : State) :
    (raiseAll es s).ds = s.ds := by rw [raiseAll_eq]
@[simp] theorem raiseAll_rxResult (es : List Event) (s : State) :
    (raiseAll es s).rxResult = s.rxResult := by rw [raiseAll_eq]
@[simp] theorem raiseAll_txPayload (es : List Event) (s : State) :
    (raiseAll es s).txPayload = s.txPayload := by rw [raiseAll_eq]
@[simp] theorem raiseAll_txFi (es : List Event) (s : State) :
    (raiseAll es s).txFi = s.txFi := by rw [raiseAll_eq]
@[simp] theorem raiseAll_stop (es : List Event) (s : State) :
    (raiseAll es s).stop = s.stop := by rw [raiseAll_eq]
@[simp] theorem raiseAll_halted (es : List Event) (s : State) :
    (raiseAll es s).halted = s.halted := by rw [raiseAll_eq]
@[simp] theorem raiseAll_status (es : List Event) (s : State) :
    (raiseAll es s).status = es.foldl setFlag s.status := by rw [raiseAll_eq]
@[simp] theorem raiseAll_cfgFiEn (es : List Event) (s : State) :
    (raiseAll es s).cfgFiEn = s.cfgFiEn := by rw [raiseAll_eq]
@[simp] theorem raiseAll_ev (es : List Event) (s : State) :
    (raiseAll es s).ev = s.ev ++ es := by rw [raiseAll_eq]
@[simp] theorem raiseAll_agenda (es : List Event) (s : State) :
    (raiseAll es s).agenda = s.agenda := by rw [raiseAll_eq]
@[simp] theorem raiseAll_portOut (es : List Event) (s : State) :
    (raiseAll es s).portOut = s.portOut := by rw [raiseAll_eq]
@[simp] theorem raiseAll_linkOut (es : List Event) (s : State) :
    (raiseAll es s).linkOut = s.linkOut := by rw [raiseAll_eq]
@[simp] theorem raiseAll_draws (es : List Event) (s : State) :
    (raiseAll es s).draws = s.draws := by rw [raiseAll_eq]

end Sys2Proof.Machine
end

