-- ==== Sys2Proof/Laws/Records.lean ====
section
/-! SUPPORT. The encoding pass (42_record_codecs.md) and the events it raises. -/

namespace Sys2Proof.Machine

/-- The width of a field's encoding does not depend on its value (R120). -/
theorem encodeField_length {R : Type} (f : Field R) (r : R) :
    (encodeField f r).bytes.length =
      match f.enc with
      | .ident _ => 1
      | .fixed _ w _ => w.bytes := by
  obtain ⟨i, enc⟩ := f
  cases enc with
  | ident get => rfl
  | fixed get w scale => exact fx_bytes_length _ _ _

/-- `ovf` is set exactly when some field is listed (R126). -/
theorem encodeRecord_ovf_iff {R : Type} (fs : List (Field R)) (r : R) :
    (encodeRecord fs r).ovf = true ↔ (encodeRecord fs r).overflowed ≠ [] := by
  induction fs with
  | nil => simp [encodeRecord]
  | cons f fs ih =>
    simp only [encodeRecord]
    cases (encodeField f r).ovf <;> simp [ih]

theorem setFlag_overflow (x : BitVec 4) (i : FxInfo) : setFlag x (.fixedPointOverflow i) = x ||| 4#4 := rfl

theorem or_four_or_four (x : BitVec 4) : x ||| 4#4 ||| 4#4 = x ||| 4#4 := by
  rw [BitVec.or_assoc]; rfl

/-- Raising the overflows of a record sets `FXOVF` if there is one (R22, R126). -/
theorem foldl_setFlag_overflowEvents (r : RecordName) (e : Encoded) (x : BitVec 4) :
    (overflowEvents r e).foldl setFlag x = if e.overflowed = [] then x else x ||| 4#4 := by
  unfold overflowEvents
  generalize e.overflowed = l
  induction l generalizing x with
  | nil => rfl
  | cons i l ih =>
    rw [List.map_cons, List.foldl_cons, ih, setFlag_overflow]
    by_cases h : l = [] <;> simp [h, or_four_or_four]

/-! The lemmas below take an encoding pass apart field by field and leave `fx` closed. A proof about slices of
these lists is best stated for an arbitrary function in the place of `fx`, as a theorem of its own, and
applied to `fx`: the kernel otherwise evaluates `fx` on a datum it does not know. -/

theorem encodeRecord_nil_bytes {R : Type} (r : R) : (encodeRecord [] r).bytes = [] := (rfl)

theorem encodeRecord_ident_bytes {R : Type} (i : Nat) (get : R → Byte) (fs : List (Machine.Field R)) (r : R) :
    (encodeRecord (⟨i, .ident get⟩ :: fs) r).bytes = [get r] ++ (encodeRecord fs r).bytes := (rfl)

theorem encodeRecord_fixed_bytes {R : Type} (i : Nat) (get : R → F64) (w : FxWidth) (k : Nat)
    (fs : List (Machine.Field R)) (r : R) :
    (encodeRecord (⟨i, .fixed get w k⟩ :: fs) r).bytes = (fx (get r) w k).bytes ++ (encodeRecord fs r).bytes :=
  (rfl)

theorem encodeRecord_nil_overflowed {R : Type} (r : R) : (encodeRecord [] r).overflowed = [] := (rfl)

theorem encodeRecord_ident_overflowed {R : Type} (i : Nat) (get : R → Byte) (fs : List (Machine.Field R))
    (r : R) : (encodeRecord (⟨i, .ident get⟩ :: fs) r).overflowed = (encodeRecord fs r).overflowed := (rfl)

theorem encodeRecord_fixed_overflowed {R : Type} (i : Nat) (get : R → F64) (w : FxWidth) (k : Nat)
    (fs : List (Machine.Field R)) (r : R) :
    (encodeRecord (⟨i, .fixed get w k⟩ :: fs) r).overflowed =
      (if (fx (get r) w k).ovf then [i] else []) ++ (encodeRecord fs r).overflowed := (rfl)

/-- The bytes of a telemetry record, field after field (R121, R123). -/
theorem encodeTelem_bytes (t : Telem) :
    (encodeTelem t).bytes =
      [t.id] ++ ((fx t.tempFet .w2 10).bytes ++ ((fx t.tempMotor .w2 10).bytes ++ (
      (fx t.avgMotorCurrent .w4 1).bytes ++ ((fx t.avgInputCurrent .w4 100).bytes ++ (
      (fx t.avgId .w4 1).bytes ++ ((fx t.avgIq .w4 1).bytes ++ ((fx t.dutyCycleNow .w2 1000).bytes ++ (
      (fx t.rpm .w4 1).bytes ++ ((fx t.voltageFiltered .w2 10).bytes ++ ((fx t.ampHours .w4 1).bytes ++ (
      (fx t.ampHoursCharged .w4 1).bytes ++ ((fx t.wattHours .w4 1).bytes ++ (
      (fx t.wattHoursCharged .w4 1).bytes ++ ((fx t.tachometer .w4 1).bytes ++ (
      (fx t.tachometerAbs .w4 1).bytes ++ ([t.id])))))))))))))))) := by
  simp only [encodeTelem, telemSchema, encodeRecord_ident_bytes, encodeRecord_fixed_bytes,
    encodeRecord_nil_bytes, List.append_nil]

/-- The bytes of a poll record, field after field (R124). -/
theorem encodePoll_bytes (p : Poll) :
    (encodePoll p).bytes =
      [p.id] ++ ([p.floatpkg] ++ ([p.floatcmd] ++ ([p.runState] ++ ([p.fault] ++ (
      (fx p.pitchOrDutyCycle .w1 100).bytes ++ ((fx p.rpm .w2 10).bytes ++ (
      (fx p.avgInputCurrent .w2 100).bytes ++ ((fx p.inpVoltage .w2 10).bytes ++ (
      [p.headlightBrightness] ++ ([p.headlightIdleBrightness] ++ ([p.statusbarBrightness]))))))))))) := by
  simp only [encodePoll, pollSchema, encodeRecord_ident_bytes, encodeRecord_fixed_bytes,
    encodeRecord_nil_bytes, List.append_nil]

/-- The telemetry registers whose fields overflow (R126). -/
theorem encodeTelem_overflowed (t : Telem) :
    (encodeTelem t).overflowed =
      (if (fx t.tempFet .w2 10).ovf then [1] else []) ++ (
      (if (fx t.tempMotor .w2 10).ovf then [2] else []) ++ (
      (if (fx t.avgMotorCurrent .w4 1).ovf then [3] else []) ++ (
      (if (fx t.avgInputCurrent .w4 100).ovf then [4] else []) ++ (
      (if (fx t.avgId .w4 1).ovf then [5] else []) ++ ((if (fx t.avgIq .w4 1).ovf then [6] else []) ++ (
      (if (fx t.dutyCycleNow .w2 1000).ovf then [7] else []) ++ (
      (if (fx t.rpm .w4 1).ovf then [8] else []) ++ (
      (if (fx t.voltageFiltered .w2 10).ovf then [9] else []) ++ (
      (if (fx t.ampHours .w4 1).ovf then [10] else []) ++ (
      (if (fx t.ampHoursCharged .w4 1).ovf then [11] else []) ++ (
      (if (fx t.wattHours .w4 1).ovf then [12] else []) ++ (
      (if (fx t.wattHoursCharged .w4 1).ovf then [13] else []) ++ (
      (if (fx t.tachometer .w4 1).ovf then [14] else []) ++ (
      (if (fx t.tachometerAbs .w4 1).ovf then [15] else []))))))))))))))) := by
  simp only [encodeTelem, telemSchema, encodeRecord_ident_overflowed, encodeRecord_fixed_overflowed,
    encodeRecord_nil_overflowed, List.append_nil]

/-- The poll registers whose fields overflow (R126). -/
theorem encodePoll_overflowed (p : Poll) :
    (encodePoll p).overflowed =
      (if (fx p.pitchOrDutyCycle .w1 100).ovf then [5] else []) ++ (
      (if (fx p.rpm .w2 10).ovf then [6] else []) ++ (
      (if (fx p.avgInputCurrent .w2 100).ovf then [7] else []) ++ (
      (if (fx p.inpVoltage .w2 10).ovf then [8] else [])))) := by
  simp only [encodePoll, pollSchema, encodeRecord_ident_overflowed, encodeRecord_fixed_overflowed,
    encodeRecord_nil_overflowed, List.append_nil]

end Sys2Proof.Machine
end

