-- ==== Sys2Proof/Laws/Turn.lean ====
section
/-! SUPPORT. Inversions: everything a turn, a step and an operation can do when it answers a next state.
Invariants are derived from these, not from unfolding `step`. -/

namespace Sys2Proof.Machine

/-- What stands for a turn once the operation it decoded has run. -/
def Turn.outcome : Turn → Host.Outcome State Fault Refusal
  | .run i s => exec i s
  | .done o => o

theorem step_eq_outcome (s : State) : step s = (nextTurn s).outcome := by
  unfold step Turn.outcome; rfl

/-- Whenever the turn is the engine's, a step is its turn at the state with the entry removed (R6). -/
theorem step_of_engineTurn {s : State} {turns : List Action} (h : s.EngineTurn turns) :
    step s = (engTurn { s with agenda := turns }).outcome := by
  rw [step_eq_outcome, nextTurn]
  rcases h with ⟨h, rfl⟩ | h
  · have he : { s with agenda := [] } = s := by cases s; cases h; rfl
    rw [h, he]
  · rw [h]; rfl

/-- What an engine turn can do (R170). -/
theorem engTurn_cases {s t : State} (h : (engTurn s).outcome = .next t) :
    ((s.halted = true ∨ (s.ds = .awaitingFrame ∧ s.rxq = [])) ∧ t = s) ∨
    (s.halted = false ∧ s.ds = .loopTop ∧ t = loopTopStep s) ∨
    (s.halted = false ∧ s.ds = .awaitingFrame ∧
      ∃ b rest, s.rxq = b :: rest ∧ rxByteStep b { s with rxq := rest } = .next t) ∨
    (s.halted = false ∧ s.ds = .dispatching ∧ exec (classify s.rxResult) s = .next t) ∨
    (s.halted = false ∧ s.ds = .responding ∧ respondStep Config.fiPresent s = .next t) := by
  unfold engTurn at h
  cases hh : s.halted with
  | true => simp [hh, Turn.outcome] at h; exact .inl ⟨.inl rfl, h.symm⟩
  | false =>
    simp only [hh, Bool.false_eq_true, if_false] at h
    cases hd : s.ds with
    | loopTop => simp [hd, Turn.outcome] at h; exact .inr (.inl ⟨rfl, rfl, h.symm⟩)
    | awaitingFrame =>
      simp only [hd] at h
      cases hq : s.rxq with
      | nil => simp [hq, Turn.outcome] at h; exact .inl ⟨.inr ⟨rfl, rfl⟩, h.symm⟩
      | cons b rest =>
        simp only [hq, Turn.outcome] at h
        exact .inr (.inr (.inl ⟨rfl, rfl, b, rest, rfl, h⟩))
    | dispatching =>
      simp only [hd, Turn.outcome] at h; exact .inr (.inr (.inr (.inl ⟨rfl, rfl, h⟩)))
    | responding =>
      simp only [hd, Turn.outcome] at h; exact .inr (.inr (.inr (.inr ⟨rfl, rfl, h⟩)))

/-- What a word on the local port can do (R75, R76, R205). -/
theorem portTurn_cases {a : PortAgent} {w : PortWord} {s t : State}
    (h : (portTurn a w s).outcome = .next t) :
    ∃ i, decodePort w = .ok i ∧ Instr.portAgent i = some a ∧ exec i s = .next t := by
  unfold portTurn at h
  split at h
  · simp [Turn.outcome] at h
  · split_ifs at h with hr
    · exact ⟨_, ‹_›, hr, h⟩
    · simp [Turn.outcome] at h

/-- Everything a step can do (R6): an engine turn, a word of COL or FN on the local port, a step of the
link, or the configuration input. -/
theorem step_cases {s t : State} (h : step s = .next t) :
    (s.agenda = [] ∧ (engTurn s).outcome = .next t) ∨
    ∃ a rest, s.agenda = a :: rest ∧
      ((a = .eng ∧ (engTurn { s with agenda := rest }).outcome = .next t) ∨
      (∃ w i, a = .col w ∧ decodePort w = .ok i ∧ Instr.portAgent i = some .col ∧
        exec i { s with agenda := rest } = .next t) ∨
      (∃ w i, a = .fn w ∧ decodePort w = .ok i ∧ Instr.portAgent i = some .fn ∧
        exec i { s with agenda := rest } = .next t) ∨
      (∃ b, a = .linkPut b ∧ t = linkPutStep b { s with agenda := rest }) ∨
      (a = .linkTake ∧ t = linkTakeStep { s with agenda := rest }) ∨
      (a = .linkFail ∧ t = linkFailStep { s with agenda := rest }) ∨
      (∃ b, a = .cfgInput b ∧ t = { s with agenda := rest })) := by
  rw [step_eq_outcome] at h
  unfold nextTurn at h
  split at h
  · exact .inl ⟨‹_›, h⟩
  · rename_i a rest ha
    refine .inr ⟨a, rest, ha, ?_⟩
    cases a with
    | eng => exact .inl ⟨rfl, h⟩
    | col w =>
      obtain ⟨i, h1, h2, h3⟩ := portTurn_cases h
      exact .inr (.inl ⟨w, i, rfl, h1, h2, h3⟩)
    | fn w =>
      obtain ⟨i, h1, h2, h3⟩ := portTurn_cases h
      exact .inr (.inr (.inl ⟨w, i, rfl, h1, h2, h3⟩))
    | linkPut b =>
      simp only [actionTurn, Turn.outcome, Host.Outcome.next.injEq] at h
      exact .inr (.inr (.inr (.inl ⟨b, rfl, h.symm⟩)))
    | linkTake =>
      simp only [actionTurn, Turn.outcome, Host.Outcome.next.injEq] at h
      exact .inr (.inr (.inr (.inr (.inl ⟨rfl, h.symm⟩))))
    | linkFail =>
      simp only [actionTurn, Turn.outcome, Host.Outcome.next.injEq] at h
      exact .inr (.inr (.inr (.inr (.inr (.inl ⟨rfl, h.symm⟩)))))
    | cfgInput b =>
      simp only [actionTurn, Turn.outcome, cfgInputStep, Config.fiPresent, Bool.false_eq_true, if_false,
        Host.Outcome.next.injEq] at h
      exact .inr (.inr (.inr (.inr (.inr (.inr ⟨b, rfl, h.symm⟩)))))
    | fiGarbage => simp [actionTurn, Turn.outcome] at h

/-- What an operation of the local port leaves alone: everything but `T`, `P`, `stop`, `EV`, `STATUS` and
the delivered result (R13, R75, R178). -/
theorem exec_port_frame {i : Instr} {s t : State} (hi : Instr.portAgent i ≠ none)
    (h : exec i s = .next t) :
    t = { s with
      telem := t.telem, poll := t.poll, stop := t.stop, ev := t.ev, status := t.status
      portOut := t.portOut } := by
  cases i with
  | getvalues _ | poll _ | chgstate _ | lcmdebug _ | unknown _ => simp [Instr.portAgent] at hi
  | crc16 bytes => simp only [exec, execCrc16, Host.Outcome.next.injEq] at h; subst h; rfl
  | encfx8 v scale | encfx16 v scale | encfx32 v scale =>
    simp only [exec, execEncfx8, execEncfx16, execEncfx32, encodeOnPort] at h
    split_ifs at h <;> (simp only [Host.Outcome.next.injEq] at h; subst h; rw [raiseAll_eq]; rfl)
  | enctelem | encpoll =>
    simp only [exec, execEnctelem, execEncpoll, Host.Outcome.next.injEq] at h
    subst h; rw [raiseAll_eq]; rfl
  | reframe p =>
    simp only [exec, execReframe] at h
    split at h
    · simp only [Host.Outcome.next.injEq] at h; subst h; rfl
    · cases h
  | deframe bytes =>
    simp only [exec, execDeframe, Host.Outcome.next.injEq] at h
    subst h; rw [raiseAll_eq]; rfl
  | sett j v =>
    simp only [exec, execSett] at h
    split at h
    · simp only [Host.Outcome.next.injEq] at h; subst h; rfl
    · cases h
  | setp j v =>
    simp only [exec, execSetp] at h
    split at h
    · simp only [Host.Outcome.next.injEq] at h; subst h; rfl
    · cases h
  | setstop => simp only [exec, execSetstop, Host.Outcome.next.injEq] at h; subst h; rfl

/-- What a wire command can do (R172 to R176): prepare one of the two replies, or record the command and
return to the loop top. -/
theorem exec_wire_cases {p : List Byte} {s t : State} (h : exec (classify p) s = .next t) :
    t = handReply (encodeTelem s.telem).bytes false
      (raiseAll (overflowEvents .telem (encodeTelem s.telem)) s) ∨
    t = handReply (encodePoll s.poll).bytes true
      (raiseAll (overflowEvents .poll (encodePoll s.poll)) s) ∨
    t = dropFrame (.knownNoReply .chgstate) s ∨ t = dropFrame (.knownNoReply .lcmdebug) s ∨
    t = dropFrame (.unknownCommand p) s := by
  simp only [classify, classifyWith, Config.cmdMatch, classifyByPrefix] at h
  split at h <;>
    simp only [exec, execGetvalues, execPoll, execChgstate, execLcmdebug, execUnknown,
      Host.Outcome.next.injEq] at h <;> subst h <;> simp

/-- A reply is sent (R177): the frame of the pending payload is appended and nothing else but the
sequencer moves, since fault injection is absent. -/
theorem respondStep_next {s t : State} (h : respondStep Config.fiPresent s = .next t) :
    ∃ f, reframe s.txPayload = some f ∧ t = { s with txq := s.txq ++ f, ds := .loopTop } := by
  have hi : respondInjects Config.fiPresent s = false := by
    simp [respondInjects, fiEnabled, Config.fiPresent]
  simp only [respondStep, respondCrc, hi, Bool.false_and, Bool.false_eq_true, if_false] at h
  split at h
  · cases h
  · rename_i f hf
    simp only [Host.Outcome.next.injEq] at h
    exact ⟨f, hf, h.symm⟩

/-- Frame completion once the body is read whole (R146). -/
theorem completeFrame_eq {s : State} {body : List Byte}
    (h : rxBufSlice s.rxBuf 0 (s.rxLen.toNat + 3) = .ok body) :
    completeFrame s = .next (handOver (checkBody s.rxLen.toNat body) { s with rxPhase := .hunt }) := by
  unfold completeFrame; rw [h]

/-- What a byte of the stream can do (R143 to R146, R179). -/
theorem rxByteStep_cases {b : Byte} {s t : State} (h : rxByteStep b s = .next t) :
    (s.rxPhase = .hunt ∧ ((b = 0x02 ∧ t = { s with rxPhase := .len }) ∨ (b ≠ 0x02 ∧ t = s))) ∨
    (s.rxPhase = .len ∧ t = { s with rxLen := b, rxCnt := 0, rxPhase := .body }) ∨
    (s.rxPhase = .body ∧ s.rxCnt < 258 ∧
      ((s.rxCnt + 1 ≠ s.rxLen.toNat + 3 ∧
        t = { s with rxBuf := s.rxBuf.insert s.rxCnt b, rxCnt := s.rxCnt + 1 }) ∨
      (s.rxCnt + 1 = s.rxLen.toNat + 3 ∧ ∃ body,
        rxBufSlice (s.rxBuf.insert s.rxCnt b) 0 (s.rxLen.toNat + 3) = .ok body ∧
        t = handOver (checkBody s.rxLen.toNat body)
          { s with
            rxBuf := s.rxBuf.insert s.rxCnt b, rxCnt := s.rxCnt + 1, rxPhase := .hunt }))) := by
  unfold rxByteStep at h
  split at h
  · rename_i hp
    simp only [Host.Outcome.next.injEq] at h
    refine .inl ⟨hp, ?_⟩
    split_ifs at h with hb
    · exact .inl ⟨hb, h.symm⟩
    · exact .inr ⟨hb, h.symm⟩
  · rename_i hp
    simp only [Host.Outcome.next.injEq] at h
    exact .inr (.inl ⟨hp, h.symm⟩)
  · rename_i hp
    refine .inr (.inr ⟨hp, ?_⟩)
    unfold rxBodyStep at h
    split at h
    · cases h
    · rename_i m hm
      obtain ⟨ha, rfl⟩ := (rxBufWrite_ok_iff _ _ _ _).1 hm
      refine ⟨ha, ?_⟩
      simp only at h
      split_ifs at h with hc
      · refine .inr ⟨hc, ?_⟩
        unfold completeFrame at h
        simp only at h
        split at h
        · cases h
        · rename_i body hbody
          simp only [Host.Outcome.next.injEq] at h
          exact ⟨body, hbody, h.symm⟩
      · simp only [Host.Outcome.next.injEq] at h
        exact .inl ⟨hc, h.symm⟩

/-- What a hand-over can do (R179). -/
theorem handOver_cases (res : DeframeResult) (s : State) :
    (∃ p, res = .ok p ∧ handOver res s = { s with rxResult := p, ds := .dispatching }) ∨
    (res = .malformed ∧ handOver res s = dropFrame .malformed s) ∨
    (∃ a b, res = .crcMismatch a b ∧ handOver res s = dropFrame (.crcMismatch a b) s) ∨
    (res = .pending ∧ handOver res s = s) := by
  cases res <;> simp [handOver]

end Sys2Proof.Machine
end

