-- ==== Sys2Proof/Tests/Slice0.lean ====
section
/-! SUPPORT. Named tests: ill-formed terms are refused, written words decode, single steps give the bytes of
spec/95_test_vectors.md, and for every obligation with hypotheses a witness that meets them all. Expected
values are the spec's; a docstring names the vector or rule. -/

namespace Sys2Proof.Tests

open Sys2Proof Sys2Proof.Machine

/-- A property of the next state; false at a fault or a refusal. -/
def after (o : Host.Outcome State Fault Refusal) (p : State → Bool) : Bool :=
  match o with
  | .next t => p t
  | _ => false

/-- Whether an outcome is a given refusal. -/
def refuses (o : Host.Outcome State Fault Refusal) (r : Refusal) : Bool :=
  match o with
  | .refused x => x == r
  | _ => false

/-- A running engine awaiting a frame, with bytes to read. -/
def idle (rxq : List Byte) : State := { State.reset with ds := .awaitingFrame, rxq := rxq }

/-- A running engine in the middle of the frame `02 01 04 40 84 03`: payload and high CRC byte are taken. -/
def midFrame : State :=
  { idle [0x84, 0x03] with
    rxPhase := .body, rxLen := 1, rxCnt := 2, rxBuf := [(0, 0x04), (1, 0x40)] }

/-- The same engine with one byte of the frame to come. -/
def lastByte (fin : Byte) : State :=
  { midFrame with rxq := [fin, 0x02], rxCnt := 3, rxBuf := [(0, 0x04), (1, 0x40), (2, 0x84)] }

/-- A running engine about to send a reply. -/
def replying (p : List Byte) (fi : Bool) : State :=
  { State.reset with ds := .responding, txPayload := p, txFi := fi }

/-- `1.0`. -/
def one : F64 := 0x3FF0000000000000#64

/-! ## Well-formedness: an ill-formed term for each check -/

/-- R61. -/
theorem test_ill_formed_getvalues_too_long :
    (Instr.getvalues (List.replicate 255 0)).wellFormed = false := by decide +kernel

/-- R61. -/
theorem test_ill_formed_poll_too_long :
    (Instr.poll (List.replicate 253 0)).wellFormed = false := by decide +kernel

/-- R61. -/
theorem test_ill_formed_chgstate_too_long :
    (Instr.chgstate (List.replicate 253 0)).wellFormed = false := by decide +kernel

/-- R61. -/
theorem test_ill_formed_lcmdebug_too_long :
    (Instr.lcmdebug (List.replicate 253 0)).wellFormed = false := by decide +kernel

/-- R71. -/
theorem test_ill_formed_exact_match_has_no_tail :
    (Instr.getvalues [0]).wellFormedWith .exact = false ∧ (Instr.poll [0]).wellFormedWith .exact = false ∧
    (Instr.chgstate [0]).wellFormedWith .exact = false ∧ (Instr.lcmdebug [0]).wellFormedWith .exact = false :=
  by decide

/-- R71. -/
theorem test_ill_formed_unknown_is_known :
    (Instr.unknown [0x04, 0x09]).wellFormed = false ∧ (Instr.unknown [0x24, 0x65, 0x1C]).wellFormed = false ∧
    (Instr.unknown [0x24, 0x65, 0x63]).wellFormedWith .exact = false := by decide

/-- R61. -/
theorem test_ill_formed_unknown_too_long :
    (Instr.unknown (List.replicate 256 0)).wellFormed = false := by decide +kernel

/-- R108. -/
theorem test_ill_formed_scale_zero :
    (Instr.encfx8 one 0).wellFormed = false ∧ (Instr.encfx16 one 0).wellFormed = false ∧
    (Instr.encfx32 one 0).wellFormed = false := by decide

/-- R150. -/
theorem test_ill_formed_reframe_too_long :
    (Instr.reframe (List.replicate 256 0)).wellFormed = false := by decide +kernel

/-- R13. -/
theorem test_ill_formed_sett_index :
    (Instr.sett 17 (.u8 0)).wellFormed = false ∧ (Instr.sett 17 (.fmt one)).wellFormed = false := by decide

/-- R13. -/
theorem test_ill_formed_sett_type :
    (Instr.sett 0 (.fmt one)).wellFormed = false ∧ (Instr.sett 16 (.fmt one)).wellFormed = false ∧
    (Instr.sett 1 (.u8 0)).wellFormed = false ∧ (Instr.sett 15 (.u8 0)).wellFormed = false := by decide

/-- R13. -/
theorem test_ill_formed_setp_index :
    (Instr.setp 12 (.u8 0)).wellFormed = false ∧ (Instr.setp 12 (.fmt one)).wellFormed = false := by decide

/-- R13. -/
theorem test_ill_formed_setp_type :
    (Instr.setp 4 (.fmt one)).wellFormed = false ∧ (Instr.setp 9 (.fmt one)).wellFormed = false ∧
    (Instr.setp 5 (.u8 0)).wellFormed = false ∧ (Instr.setp 8 (.u8 0)).wellFormed = false := by decide

/-! ## Decoding: a written word for every constructor -/

/-- The payload of R70, R73. -/
theorem test_decode_getvalues :
    (decode (.wire [0x04])).toOption = some (.getvalues []) := by decide

/-- The payload of R70, R73. -/
theorem test_decode_poll :
    (decode (.wire [0x24, 0x65, 0x18])).toOption = some (.poll []) := by decide

/-- The payload of R70, R73. -/
theorem test_decode_chgstate :
    (decode (.wire [0x24, 0x65, 0x1C])).toOption = some (.chgstate []) := by decide

/-- The payload of R70, R73. -/
theorem test_decode_lcmdebug :
    (decode (.wire [0x24, 0x65, 0x63])).toOption = some (.lcmdebug []) := by decide

/-- The payload of R70, R73. -/
theorem test_decode_unknown :
    (decode (.wire [0x24, 0x66, 0x18])).toOption = some (.unknown [0x24, 0x66, 0x18]) := by decide

/-- The empty payload is `UNKNOWN` (R73). -/
theorem test_decode_empty :
    (decode (.wire [])).toOption = some (.unknown []) := by decide

/-- Bytes after the matched ones are the tail (R71, vector F9). -/
theorem test_decode_tail :
    (decode (.wire [0x04, 0xFF])).toOption = some (.getvalues [0xFF]) := by decide

/-- The operation select of R75. -/
theorem test_decode_crc16 :
    (decode (.port { PortWord.ofOp 0 with op := 0x1, bytes := [0x31] })).toOption = some (.crc16 [0x31]) :=
  by decide

/-- The operation select of R75. -/
theorem test_decode_encfx8 :
    (decode (.port { PortWord.ofOp 0 with op := 0x2, v := one, scale := 10 })).toOption = some (.encfx8 one 10) :=
  by decide

/-- The operation select of R75. -/
theorem test_decode_encfx16 :
    (decode (.port { PortWord.ofOp 0 with op := 0x3, v := one, scale := 10 })).toOption = some (.encfx16 one 10) :=
  by decide

/-- The operation select of R75. -/
theorem test_decode_encfx32 :
    (decode (.port { PortWord.ofOp 0 with op := 0x4, v := one, scale := 10 })).toOption = some (.encfx32 one 10) :=
  by decide

/-- The operation select of R75. -/
theorem test_decode_enctelem :
    (decode (.port { PortWord.ofOp 0 with op := 0x5 })).toOption = some (.enctelem) := by decide

/-- The operation select of R75. -/
theorem test_decode_encpoll :
    (decode (.port { PortWord.ofOp 0 with op := 0x6 })).toOption = some (.encpoll) := by decide

/-- The operation select of R75. -/
theorem test_decode_reframe :
    (decode (.port { PortWord.ofOp 0 with op := 0x7, bytes := [0x04] })).toOption = some (.reframe [0x04]) :=
  by decide

/-- The operation select of R75. -/
theorem test_decode_deframe :
    (decode (.port { PortWord.ofOp 0 with op := 0x8, bytes := [0x02] })).toOption = some (.deframe [0x02]) :=
  by decide

/-- The operation select of R75. -/
theorem test_decode_sett :
    (decode (.port { PortWord.ofOp 0 with op := 0x9, index := 8, value := .fmt one })).toOption = some (.sett 8 (.fmt one)) :=
  by decide

/-- The operation select of R75. -/
theorem test_decode_setp :
    (decode (.port { PortWord.ofOp 0 with op := 0xA, index := 9, value := .u8 0xFF })).toOption = some (.setp 9 (.u8 0xFF)) :=
  by decide

/-- The operation select of R75. -/
theorem test_decode_setstop :
    (decode (.port { PortWord.ofOp 0 with op := 0xB })).toOption = some (.setstop) := by decide

/-- The reserved selects (R76). -/
theorem test_decode_reserved :
    [0x0#4, 0xC#4, 0xD#4, 0xE#4, 0xF#4].all fun op => (decodePort (PortWord.ofOp op)).toOption.isNone :=
  by decide

/-- Rows of opcode_table.json in its own numbering (R72). -/
theorem test_decode_table_words :
    decodeTableWord 24 0x040000 = some (.getvalues [0, 0]) ∧ decodeTableWord 24 0x246563 = some (.lcmdebug []) ∧
    decodeTableWord 8 0xB = some .setstop ∧ decodeTableWord 8 0xC = none ∧
    decodeTableWord 24 0 = some (.unknown [0, 0, 0]) := by decide

/-! ## The CRC16 engine -/

/-- Vector K1. -/
theorem test_crc_table :
    crcTab.length = 256 ∧ crcEntry 0x01 = 0x1021 ∧ crcEntry 0x24 = 0x64E6 ∧ crcEntry 0x80 = 0x9188 ∧
    crcEntry 0xFF = 0x1EF0 := by decide +kernel

/-- Vector K3, its first step and its result. -/
theorem test_crc_check_value :
    crcStep 0 0x31 = 0x2672 ∧ crc16 [0x31, 0x32, 0x33, 0x34, 0x35, 0x36, 0x37, 0x38, 0x39] = 0x31C3 :=
  by decide

/-- Vector K2, through the operation. -/
theorem test_crc16 :
    after (exec (.crc16 [0x24, 0x65, 0x18]) State.reset) (fun t => t == { State.reset with portOut := .crc 0x3DE0 }) :=
  by decide

/-! ## The fixed-point encoders -/

/-- Vector X18. -/
theorem test_encfx8_tie_to_even :
    after (exec (.encfx8 0x405FA00000000000#64 1) State.reset) (fun t =>
      t == { State.reset with portOut := .encoded [0x7E] false }) := by decide

/-- Vector X17. -/
theorem test_encfx8_clamps :
    after (exec (.encfx8 0x4000000000000000#64 100) State.reset) (fun t =>
      t == { State.reset with
        portOut := .encoded [0x7F] true, status := 4
        ev := [.fixedPointOverflow (.operands 0x4000000000000000#64 .w1 100)] }) := by decide

/-- Vector X1. -/
theorem test_encfx16_duty_cycle :
    after (exec (.encfx16 0x3FE4000000000000#64 1000) State.reset) (fun t =>
      t == { State.reset with portOut := .encoded [0x02, 0x71] false }) := by decide

/-- Vector X26. -/
theorem test_encfx16_clamps_low :
    after (exec (.encfx16 0xC0A999CCCCCCCCCD#64 10) State.reset) (fun t =>
      t == { State.reset with
        portOut := .encoded [0x80, 0x00] true, status := 4
        ev := [.fixedPointOverflow (.operands 0xC0A999CCCCCCCCCD#64 .w2 10)] }) := by decide

/-- Vector X4. -/
theorem test_encfx32_negative :
    after (exec (.encfx32 0xC028AE147AE147AE#64 100) State.reset) (fun t =>
      t == { State.reset with portOut := .encoded [0xFF, 0xFF, 0xFB, 0x2E] false }) := by decide

/-- Vector X39. -/
theorem test_encfx32_nan :
    after (exec (.encfx32 0x7FF8000000000000#64 1) State.reset) (fun t =>
      t == { State.reset with
        portOut := .encoded [0x00, 0x00, 0x00, 0x00] true, status := 4
        ev := [.fixedPointOverflow (.operands 0x7FF8000000000000#64 .w4 1)] }) := by decide

/-- Vectors X47, X48: the product is exact. -/
theorem test_fx_product_is_exact :
    (fx 0x3FA999999999999A#64 .w2 10).bytes = [0x00, 0x01] ∧ (fx 0x3FC3333333333333#64 .w2 10).bytes = [0x00, 0x01] :=
  by decide

/-- Vectors X12, X37, X38: a subnormal and the infinities. -/
theorem test_fx_special :
    fx 0x00000000000007E8#64 .w4 1 = ⟨[0, 0, 0, 0], false⟩ ∧ fx 0x7FF0000000000000#64 .w2 10 = ⟨[0x7F, 0xFF], true⟩ ∧
    fx 0xFFF0000000000000#64 .w1 100 = ⟨[0x80], true⟩ := by decide

/-- The bounds and their patterns, and the pattern of -1 (R109). -/
theorem test_fx_bounds :
    [FxWidth.w1, .w2, .w4].map (fun w => (fxLo w, fxHi w)) =
      [(-128, 127), (-32768, 32767), (-2147483648, 2147483647)] ∧
    fxBytes (fxLo .w4) .w4 = [0x80, 0, 0, 0] ∧ fxBytes (fxHi .w2) .w2 = [0x7F, 0xFF] ∧
    fxBytes (-1) .w4 = [0xFF, 0xFF, 0xFF, 0xFF] := by decide

/-- Vector X54. -/
theorem test_encfx_scale_zero :
    refuses (exec (.encfx16 one 0) State.reset) .badScale := by decide

/-! ## The record serializers -/

/-- The telemetry of vector E3. -/
def telemE3 : Telem :=
  { id := 0x04, tempFet := 0x40394CCCCCCCCCCD#64, tempMotor := 0xC014000000000000#64, avgMotorCurrent := 0x4028CCCCCCCCCCCD#64,
    avgInputCurrent := 0xC028AE147AE147AE#64, avgId := 0xBFD999999999999A#64, avgIq := 0x401E666666666666#64,
    dutyCycleNow := 0xBFD0000000000000#64, rpm := 0xC0A7700000000000#64, voltageFiltered := 0x4049333333333333#64,
    ampHours := 0x4008000000000000#64, ampHoursCharged := 0x3FF0000000000000#64, wattHours := 0x405E000000000000#64,
    wattHoursCharged := 0x402E000000000000#64, tachometer := 0x40F86A0000000000#64, tachometerAbs := 0x410E848000000000#64,
    faultCode := 0x07 }

/-- The telemetry of vector E4. -/
def telemE4 : Telem :=
  { Telem.reset with
    id := 0x04, tempFet := 0x40AF400000000000#64, dutyCycleNow := 0xC044000000000000#64, rpm := 0x41E65A0BC0000000#64
    voltageFiltered := 0x7FF8000000000000#64 }

/-- The poll record of vector E6. -/
def pollE6 : Poll :=
  { id := 0x24, floatpkg := 0x65, floatcmd := 0x18, runState := 0x01, fault := 0x00,
    pitchOrDutyCycle := 0xBFE0000000000000#64, rpm := 0x40934A0000000000#64, avgInputCurrent := 0xC009AE147AE147AE#64,
    inpVoltage := 0x4049333333333333#64, headlightBrightness := 0xFF, headlightIdleBrightness := 0x80,
    statusbarBrightness := 0x00 }

/-- The poll record of vector E7. -/
def pollE7 : Poll := { pollE6 with pitchOrDutyCycle := 0x4000000000000000#64, rpm := 0xC0AF400000000000#64 }

/-- Vector E3: the fault code is nowhere in it. -/
theorem test_enctelem_e3 :
    after (exec .enctelem { State.reset with telem := telemE3 }) (fun t =>
      t.ev == [] && t.portOut == .encoded
        [0x04, 0x00, 0xFD, 0xFF, 0xCE, 0x00, 0x00, 0x00, 0x0C, 0xFF, 0xFF, 0xFB, 0x2E, 0x00, 0x00,
          0x00, 0x00, 0x00, 0x00, 0x00, 0x08, 0xFF, 0x06, 0xFF, 0xFF, 0xF4, 0x48, 0x01, 0xF8, 0x00,
          0x00, 0x00, 0x03, 0x00, 0x00, 0x00, 0x01, 0x00, 0x00, 0x00, 0x78, 0x00, 0x00, 0x00, 0x0F,
          0x00, 0x01, 0x86, 0xA0, 0x00, 0x03, 0xD0, 0x90, 0x04] false) := by decide

/-- Vector E4: the events of an overflowing record, in order. -/
theorem test_enctelem_e4_events :
    after (exec .enctelem { State.reset with telem := telemE4 }) (fun t =>
      t.status == 4 && t.ev == [1, 7, 8, 9].map fun i => .fixedPointOverflow (.field .telem i)) :=
  by decide

/-- Vector E6. -/
theorem test_encpoll_e6 :
    after (exec .encpoll { State.reset with poll := pollE6 }) (fun t =>
      t.ev == [] && t.portOut == .encoded
        [0x24, 0x65, 0x18, 0x01, 0x00, 0xCE, 0x30, 0x39, 0xFE, 0xBF, 0x01, 0xF8, 0xFF, 0x80, 0x00] false) :=
  by decide

/-- Vector E7. -/
theorem test_encpoll_e7 :
    after (exec .encpoll { State.reset with poll := pollE7 }) (fun t =>
      t.status == 4 && t.ev == [5, 6].map (fun i => .fixedPointOverflow (.field .poll i)) &&
      t.portOut == .encoded
        [0x24, 0x65, 0x18, 0x01, 0x00, 0x7F, 0x80, 0x00, 0xFE, 0xBF, 0x01, 0xF8, 0xFF, 0x80, 0x00] true) :=
  by decide

/-! ## The frame protocol -/

/-- Vector F2. -/
theorem test_reframe :
    after (exec (.reframe [0x04]) State.reset) (fun t =>
      t == { State.reset with portOut := .framed [0x02, 0x01, 0x04, 0x40, 0x84, 0x03] }) := by decide

/-- R150. -/
theorem test_reframe_too_long :
    refuses (exec (.reframe (List.replicate 256 0)) State.reset) .payloadTooLong := by decide +kernel

/-- The false start of R155. -/
theorem test_deframe_false_start :
    after (exec (.deframe [0x02, 0x02, 0x01, 0x04, 0x40, 0x84, 0x03]) State.reset) (fun t =>
      t == { State.reset with
        portOut := .deframed (.crcMismatch 0x4084 0x73B5) []
        ev := [.crcMismatch 0x4084 0x73B5], status := 2 }) := by decide

/-- A good frame with noise before it and bytes after it (R142). -/
theorem test_deframe_good :
    deframe [0xAA, 0x03, 0x02, 0x01, 0x04, 0x40, 0x84, 0x03, 0x02] = (.ok [0x04], [0x02]) := by decide

/-- The end byte is tested before the CRC (R147). -/
theorem test_deframe_end_first :
    deframe [0x02, 0x01, 0x04, 0x00, 0x00, 0x04] = (.malformed, []) := by decide

/-! ## The engine, one step at a time -/

/-- R172 with vector E4: the reply is prepared although fields overflow. -/
theorem test_getvalues :
    after (exec (.getvalues []) { State.reset with telem := telemE4 }) (fun t =>
      t.ds == .responding && !t.txFi && t.txPayload.length == 54 && t.txPayload.take 3 == [0x04, 0x7F, 0xFF] &&
      t.status == 4 && t.portOut == .none) := by decide

/-- R173 with vector E6. -/
theorem test_poll :
    after (exec (.poll []) { State.reset with poll := pollE6 }) (fun t =>
      t.ds == .responding && t.txFi && t.txPayload.take 7 == [0x24, 0x65, 0x18, 0x01, 0x00, 0xCE, 0x30]) :=
  by decide

/-- R174. -/
theorem test_chgstate :
    after (exec (.chgstate []) { idle [] with ds := .dispatching }) (fun t =>
      t == { idle [] with ds := .loopTop, ev := [.knownNoReply .chgstate] }) := by decide

/-- R175. -/
theorem test_lcmdebug :
    after (exec (.lcmdebug []) { idle [] with ds := .dispatching }) (fun t =>
      t == { idle [] with ds := .loopTop, ev := [.knownNoReply .lcmdebug] }) := by decide

/-- R176. -/
theorem test_unknown :
    after (exec (.unknown [0x05]) { idle [] with ds := .dispatching }) (fun t =>
      t == { idle [] with ds := .loopTop, ev := [.unknownCommand [0x05]], status := 8 }) := by decide

/-- R146: the last byte of `02 01 04 40 84 03`. -/
theorem test_rx_last_byte :
    after (step (lastByte 0x03)) (fun t =>
      t.ds == .dispatching && t.rxResult == [0x04] && t.rxPhase == .hunt && t.rxq == [0x02]) :=
  by decide

/-- R147: a wrong end byte. -/
theorem test_rx_bad_end :
    after (step (lastByte 0x04)) (fun t => t.ds == .loopTop && t.ev == [.malformed] && t.status == 1) :=
  by decide

/-- R177: the poll reply of vector E6 is framed with CRC 0x2B1F. -/
theorem test_respond :
    after (step (replying [0x24, 0x65, 0x18, 0x01, 0x00, 0xCE, 0x30, 0x39, 0xFE, 0xBF, 0x01, 0xF8, 0xFF, 0x80, 0x00] true)) (fun t =>
      t.txq.length == 20 && t.txq.take 2 == [0x02, 0x0F] && t.txq.drop 17 == [0x2B, 0x1F, 0x03] &&
      t.ds == .loopTop) := by decide +kernel

/-! ## The collaborator, the link and the ports -/

/-- R13: an FMT register. -/
theorem test_sett :
    after (exec (.sett 8 (.fmt one)) State.reset) (fun t =>
      t == { State.reset with telem := { Telem.reset with rpm := one } }) := by decide

/-- R13: an index and a type that are not the register's. -/
theorem test_sett_refused :
    refuses (exec (.sett 17 (.u8 0)) State.reset) .badField ∧
    refuses (exec (.sett 8 (.u8 0)) State.reset) .badField := by decide

/-- R13: a u8 register. -/
theorem test_setp :
    after (exec (.setp 9 (.u8 0xFF)) State.reset) (fun t =>
      t == { State.reset with poll := { Poll.reset with headlightBrightness := 0xFF } }) := by decide

/-- R13: an index and a type that are not the register's. -/
theorem test_setp_refused :
    refuses (exec (.setp 12 (.u8 0)) State.reset) .badField ∧
    refuses (exec (.setp 5 (.u8 0)) State.reset) .badField := by decide

/-- R178. -/
theorem test_setstop :
    after (exec .setstop State.reset) (fun t => t == { State.reset with stop := true }) := by decide

/-- The table word of `POLL`, placed and run (R72, R173). -/
theorem test_fetch_word_wire :
    after (step (State.reset.withFetchWord 24 0x246518)) (fun t => t.txFi && t.txPayload == List.replicate 15 0) :=
  by decide

/-- The table word of `SETSTOP`, placed and run (R75, R178). -/
theorem test_fetch_word_port :
    after (step (State.reset.withFetchWord 8 0xB)) (fun t => t == { State.reset with stop := true }) :=
  by decide

/-! ## Witnesses: concrete states and operands that meet every hypothesis of an obligation -/

/-- Meets the hypotheses of `DecodeOfEncodeIsTheOperation`. -/
theorem witness_DecodeOfEncodeIsTheOperation :
    [Instr.getvalues (List.replicate 254 0), .poll [0x01], .chgstate [], .lcmdebug [], .unknown [0x24], .crc16 [],
      .encfx8 one 1, .encfx16 one 0xFFFF, .encfx32 one 1, .enctelem, .encpoll, .reframe (List.replicate 255 2),
      .deframe [0x02], .sett 15 (.fmt one), .setp 11 (.u8 1), .setstop].all fun i => i.wellFormed :=
  by decide +kernel

/-- Meets the hypotheses of `EveryPayloadIsOneCommand`. -/
theorem witness_EveryPayloadIsOneCommand :
    (List.replicate 255 (0x04 : Byte)).length ≤ 255 := by decide +kernel

/-- Meets the hypotheses of `ReservedSelectIsRefused`. -/
theorem witness_ReservedSelectIsRefused :
    [0x0#4, 0xC#4, 0xD#4, 0xE#4, 0xF#4].all fun op =>
      decide ((PortWord.ofOp op).op ∈ [0x0#4, 0xC#4, 0xD#4, 0xE#4, 0xF#4] ∧
        { State.reset with agenda := [.col (PortWord.ofOp op)] }.agenda = [.col (PortWord.ofOp op)]) :=
  by decide

/-- Meets the hypotheses of `CrcDetectsEverySingleBitError`. -/
theorem witness_CrcDetectsEverySingleBitError :
    (∃ h : 0 < [(0x04 : Byte)].length, [(0x04 : Byte)].length ≤ 255 ∧ 7 < 8 ∧ [(0x04 : Byte)][0] = 0x04) ∧ 15 < 16 ∧
    reframe [0x04] = some [0x02, 0x01, 0x04, 0x40, 0x84, 0x03] ∧
    (2 ≤ 2 ∧ 2 < [(0x04 : Byte)].length + 4) ∧ (2 ≤ 4 ∧ 4 < [(0x04 : Byte)].length + 4) ∧ 4 < 6 :=
  ⟨⟨by decide, by decide, by decide, rfl⟩, by decide, by decide, by decide, by decide, by decide⟩

/-- Meets the hypotheses of `RoundingIsNearestTiesToEven`. -/
theorem witness_RoundingIsNearestTiesToEven :
    0 < 2 ∧ 2 * |roundToInt 5 2 * 2 - 5| = 2 := by decide

/-- Meets the hypotheses of `RoundingIsSymmetricAboutZero`. -/
theorem witness_RoundingIsSymmetricAboutZero :
    0 < realDen := by decide

/-- Meets the hypotheses of `EncoderClampsAndNeverWraps`. -/
theorem witness_EncoderClampsAndNeverWraps :
    isFinite one = true ∧ isFinite 0xFFEFFFFFFFFFFFFF#64 = true ∧ isFinite 0x0000000000000001#64 = true :=
  by decide

/-- Meets the hypotheses of `SpecialDataAreEncodedAsDecided`. -/
theorem witness_SpecialDataAreEncodedAsDecided :
    isNaN 0x7FF8000000000000#64 = true ∧ isNaN 0xFFF0000000000001#64 = true ∧
    (0x8000000000000001#64).extractLsb' 52 11 = 0 := by decide

/-- Meets the hypotheses of `FixedPointRoundTripIsWithinHalfAStep`. -/
theorem witness_FixedPointRoundTripIsWithinHalfAStep :
    isFinite 0x3FC3333333333333#64 = true ∧ 1 ≤ 10 ∧ (fx 0x3FC3333333333333#64 .w2 10).ovf = false :=
  by decide

/-- Meets the second clause of `FixedPointRoundTripIsWithinHalfAStep` on the low side, at its boundary: -129 is
one below -128. -/
theorem witness_FixedPointRoundTripIsWithinHalfAStep_low :
    isFinite 0xC060200000000000#64 = true ∧ 1 ≤ 1 ∧ realOf 0xC060200000000000#64 * ((1 : Nat) : ℚ) = -129 ∧
      (fxLo .w1 : ℚ) - 1 = -129 := by
  refine ⟨by decide, le_rfl, ?_, by norm_num [fxLo, FxWidth.bytes]⟩
  have h : realNum 0xC060200000000000#64 = -129 * (realDen : Int) := by decide
  have hd : (realDen : ℚ) ≠ 0 := by exact_mod_cast (by decide : realDen ≠ 0)
  rw [realOf, h]; push_cast; field_simp

/-- Meets the second clause of `FixedPointRoundTripIsWithinHalfAStep`, at its boundary: 128 is one above 127. -/
theorem witness_FixedPointRoundTripIsWithinHalfAStep_high :
    isFinite 0x4060000000000000#64 = true ∧ 1 ≤ 1 ∧ realOf 0x4060000000000000#64 * ((1 : Nat) : ℚ) = 128 ∧
      (fxHi .w1 : ℚ) + 1 = 128 := by
  refine ⟨by decide, le_rfl, ?_, by norm_num [fxHi, FxWidth.bytes]⟩
  have h : realNum 0x4060000000000000#64 = 128 * (realDen : Int) := by decide
  have hd : (realDen : ℚ) ≠ 0 := by exact_mod_cast (by decide : realDen ≠ 0)
  rw [realOf, h]; push_cast; field_simp

/-- Meets the hypotheses of `EncodersDeliverBytesAndOverflow`. -/
theorem witness_EncodersDeliverBytesAndOverflow :
    (1 : Half) ≠ 0 ∧ (fx one .w1 1).ovf = false ∧ (fx 0x4069000000000000#64 .w1 1).ovf = true := by decide

/-- Meets the hypothesis of `TelemetryFieldsStandAtTheirOffsets`. -/
theorem witness_TelemetryFieldsStandAtTheirOffsets :
    ∃ b, b = (encodeTelem telemE3).bytes ∧ b.drop 53 = [0x04] := ⟨_, rfl, by decide⟩

/-- Meets the hypothesis of `PollFieldsStandAtTheirOffsets`. -/
theorem witness_PollFieldsStandAtTheirOffsets :
    ∃ b, b = (encodePoll pollE6).bytes ∧ b.drop 12 = [0xFF, 0x80, 0x00] := ⟨_, rfl, by decide⟩

/-- Meets the hypotheses of `DeframeOfReframeIsThePayload`. -/
theorem witness_DeframeOfReframeIsThePayload :
    (List.replicate 255 (0x02 : Byte)).length ≤ 255 := by decide +kernel

/-- Meets the hypotheses of `ReframeDeliversTheFrame`. -/
theorem witness_ReframeDeliversTheFrame :
    (List.replicate 255 (0 : Byte)).length ≤ 255 ∧ 255 < (List.replicate 256 (0 : Byte)).length :=
  by decide +kernel

/-- Meets the hypotheses of `DeframeFollowsTheSixSteps`. -/
theorem witness_DeframeFollowsTheSixSteps :
    (0x02#8 ∉ [0xAA#8, 0x03#8] ∧ ([] : List Byte).length = (0x00#8).toNat) ∧
    (0x02#8 ∉ ([] : List Byte) ∧ (List.replicate 255 (0x02 : Byte)).length = (0xFF#8).toNat) ∧
    (List.replicate 257 (0x02 : Byte)).length < (0xFF#8).toNat + 3 := by decide +kernel

/-- Meets the hypotheses of `DeframeConsumesExactlyOneFrame`. -/
theorem witness_DeframeConsumesExactlyOneFrame :
    deframe [0xAA, 0x02, 0x00, 0x00, 0x00, 0x04, 0x05] = (.malformed, [0x05]) ∧ DeframeResult.malformed ≠ .pending :=
  by decide

/-- Meets the hypotheses of `RxByteHuntsThenTakesTheLength`, with the turn from an empty agenda and from an entry. -/
theorem witness_RxByteHuntsThenTakesTheLength :
    (idle [0x02]).EngineTurn [] ∧ { idle [0x02] with agenda := [.eng, .linkTake] }.EngineTurn [.linkTake] ∧
    ((idle [0x02]).halted = false ∧ (idle [0x02]).ds = .awaitingFrame ∧
      (idle [0x02]).rxq = [0x02] ∧ (idle [0x02]).rxPhase = .hunt) ∧
    ({ idle [0x03] with rxPhase := .len }.rxPhase = .len ∧ { idle [0x03] with rxPhase := .len }.rxq = [0x03]) :=
  ⟨.inl ⟨rfl, rfl⟩, .inr rfl, by decide⟩

/-- Meets the hypotheses of `RxByteStoresTheBodyByte`, with the turn from an empty agenda and from an entry. -/
theorem witness_RxByteStoresTheBodyByte :
    midFrame.EngineTurn [] ∧ { midFrame with agenda := [.eng, .linkTake] }.EngineTurn [.linkTake] ∧
    midFrame.halted = false ∧ midFrame.ds = .awaitingFrame ∧ midFrame.rxPhase = .body ∧
    midFrame.rxq = [0x84, 0x03] ∧ midFrame.rxCnt + 1 < midFrame.rxLen.toNat + 3 :=
  ⟨.inl ⟨rfl, rfl⟩, .inr rfl, by decide⟩

/-- Meets the hypotheses of `LastByteCompletesTheFrame`, with the turn from an empty agenda and from an entry. -/
theorem witness_LastByteCompletesTheFrame :
    (lastByte 3).EngineTurn [] ∧ { lastByte 3 with agenda := [.eng, .linkTake] }.EngineTurn [.linkTake] ∧
    (lastByte 3).halted = false ∧ (lastByte 3).ds = .awaitingFrame ∧
    (lastByte 3).rxPhase = .body ∧ [(0x04 : Byte)].length = (lastByte 3).rxLen.toNat ∧
    (lastByte 3).rxCnt = (lastByte 3).rxLen.toNat + 2 ∧ (lastByte 3).rxq = [0x03, 0x02] ∧
    ∀ k < (lastByte 3).rxCnt, (lastByte 3).rxBuf.lookup k = ([(0x04 : Byte)] ++ [0x40, 0x84])[k]? :=
  ⟨.inl ⟨rfl, rfl⟩, .inr rfl, by decide⟩

/-- Meets the hypotheses of `EngineStepsAgreeWithDeframe`. -/
theorem witness_EngineStepsAgreeWithDeframe :
    let s := idle [0x02, 0x01, 0x04, 0x40, 0x84, 0x03, 0x07]
    s.agenda = [] ∧ s.halted = false ∧ s.ds = .awaitingFrame ∧ s.rxPhase = .hunt ∧
      deframe s.rxq = (.ok [0x04], [0x07]) := by decide

/-- Meets the hypotheses of `RespondAppendsOneWholeFrame`, with the turn from an empty agenda and from an entry. -/
theorem witness_RespondAppendsOneWholeFrame :
    (replying (List.replicate 255 0) false).EngineTurn [] ∧ { replying (List.replicate 255 0) false with agenda := [.eng, .linkTake] }.EngineTurn [.linkTake] ∧
    (replying (List.replicate 255 0) false).halted = false ∧
    (replying (List.replicate 255 0) false).ds = .responding ∧
    (replying (List.replicate 255 0) false).txPayload.length ≤ 255 :=
  ⟨.inl ⟨rfl, rfl⟩, .inr rfl, by decide +kernel⟩

/-- Meets the hypotheses of both clauses of `FaultInjectionReplacesOnlyTheCrc`; `c` is a free value's (log 6). -/
theorem witness_FaultInjectionReplacesOnlyTheCrc :
    (∃ c : Half, { replying [0x24] true with cfgFiEn := true }.txPayload.length ≤ 255 ∧
      { replying [0x24] true with cfgFiEn := true }.cfgFiEn = true ∧
      { replying [0x24] true with cfgFiEn := true }.txFi = true ∧
      c = if Config.fiInject { replying [0x24] true with cfgFiEn := true }.draws then
          Config.fiCrc { replying [0x24] true with cfgFiEn := true }.draws else crc16 [0x24]) ∧
    (replying [0x24] true).cfgFiEn = false := ⟨⟨_, by decide, rfl, rfl, rfl⟩, rfl⟩

/-- Meets the hypotheses of both clauses of `StopIsSampledAtTheLoopTopOnly`. -/
theorem witness_StopIsSampledAtTheLoopTopOnly :
    (State.reset.EngineTurn [] ∧ { State.reset with agenda := [.eng, .linkTake] }.EngineTurn [.linkTake] ∧
      State.reset.halted = false ∧ State.reset.ds = .loopTop) ∧
    step { State.reset with stop := true } = .next { State.reset with stop := true, halted := true } ∧
    { State.reset with stop := true }.halted = false ∧
    { State.reset with stop := true, halted := true }.halted = true :=
  ⟨⟨.inl ⟨rfl, rfl⟩, .inr rfl, rfl, rfl⟩, rfl, rfl, rfl⟩

/-- Meets the hypotheses of the second clause of `SetstopLatchesTheStopSignal`. -/
theorem witness_SetstopLatchesTheStopSignal :
    step { State.reset with stop := true, agenda := [.linkFail] } =
      .next (linkFailStep { State.reset with stop := true }) ∧
    { State.reset with stop := true, agenda := [.linkFail] }.stop = true := ⟨rfl, rfl⟩

/-- Meets the hypotheses of `HaltedEngineDoesNothing`. -/
theorem witness_HaltedEngineDoesNothing :
    step { State.reset with halted := true, agenda := [.linkPut 0x02] } =
      .next { State.reset with halted := true, rxq := [0x02] } ∧
    { State.reset with halted := true, agenda := [.linkPut 0x02] }.halted = true ∧
    ∀ rest, { State.reset with halted := true, agenda := [.linkPut 0x02] }.agenda ≠ .linkFail :: rest :=
  ⟨rfl, rfl, fun rest h => by simp at h⟩

/-- Meets the hypotheses of `GetvaluesRequestIsAnsweredByTheSnapshot`. -/
theorem witness_GetvaluesRequestIsAnsweredByTheSnapshot :
    let s : State := { idle [0x02, 0x01, 0x04, 0x40, 0x84, 0x03] with telem := telemE3 }
    s.agenda = [] ∧ s.halted = false ∧ s.ds = .awaitingFrame ∧ s.rxPhase = .hunt ∧
      s.rxq = [0x02, 0x01, 0x04, 0x40, 0x84, 0x03] := by decide

/-- Meets the hypotheses of `OneReplyPerAnsweredRequest`, for each of its three clauses. -/
theorem witness_OneReplyPerAnsweredRequest :
    (∀ rest : List Byte,
      let s := idle ([0x02, 0x01, 0x04, 0x40, 0x84, 0x03] ++ rest);
      s.agenda = [] ∧ s.halted = false ∧ s.ds = .awaitingFrame ∧ s.rxPhase = .hunt) ∧
    reframe [0x04] = some [0x02, 0x01, 0x04, 0x40, 0x84, 0x03] ∧ classify [0x04] = .getvalues [] ∧
    reframe [0x24, 0x65, 0x18] = some [0x02, 0x03, 0x24, 0x65, 0x18, 0x3D, 0xE0, 0x03] ∧
    classify [0x24, 0x65, 0x18] = .poll [] ∧
    reframe [] = some [0x02, 0x00, 0x00, 0x00, 0x03] ∧
    ∀ tail, classify [] ≠ .getvalues tail ∧ classify [] ≠ .poll tail :=
  ⟨fun _ => ⟨rfl, rfl, rfl, rfl⟩, by decide, rfl, by decide, rfl, by decide, fun tail => ⟨nofun, nofun⟩⟩

/-- Meets the hypotheses of `SettWritesOneTelemetryRegister`. -/
theorem witness_SettWritesOneTelemetryRegister :
    telemValueFits 0 (.u8 1) ∧ telemValueFits 1 (.fmt one) ∧ telemValueFits 15 (.fmt one) ∧ telemValueFits 16 (.u8 1) ∧
    telemValueFits 17 (.u8 1) = false ∧ telemValueFits 17 (.fmt one) = false ∧ telemValueFits 16 (.fmt one) = false :=
  by decide

/-- Meets the hypotheses of `SetpWritesOnePollRegister`. -/
theorem witness_SetpWritesOnePollRegister :
    pollValueFits 4 (.u8 1) ∧ pollValueFits 5 (.fmt one) ∧ pollValueFits 8 (.fmt one) ∧ pollValueFits 9 (.u8 1) ∧
    pollValueFits 11 (.u8 1) ∧ pollValueFits 12 (.u8 1) = false ∧ pollValueFits 5 (.u8 1) = false :=
  by decide

/-- Meets the hypotheses of `LinkMovesOneByteAtAnEndOfAStream`. -/
theorem witness_LinkMovesOneByteAtAnEndOfAStream :
    { State.reset with agenda := [.linkPut 0x02] }.agenda = [.linkPut 0x02] ∧
    { State.reset with agenda := [.linkTake], txq := [0x02, 0x36] }.agenda = [.linkTake] ∧
    { State.reset with agenda := [.linkTake], txq := [0x02, 0x36] }.txq = [0x02, 0x36] := by decide

/-- Meets the hypotheses of `LinkFailDiscardsTheSession`. -/
theorem witness_LinkFailDiscardsTheSession :
    { midFrame with agenda := [.linkFail] }.agenda = [.linkFail] := by decide

/-- Meets the hypotheses of `FaultInjectionIsAbsent`. -/
theorem witness_FaultInjectionIsAbsent :
    { State.reset with agenda := [.cfgInput true] }.agenda = [.cfgInput true] ∧
    { State.reset with agenda := [.fiGarbage] }.agenda = [.fiGarbage] := by decide

/-- Meets the hypotheses of `PortRightsAreEnforced`. -/
theorem witness_PortRightsAreEnforced :
    [1, 8].all (fun op => decide (1 ≤ (BitVec.ofNat 4 op).toNat ∧ (BitVec.ofNat 4 op).toNat ≤ 8)) ∧
    [9, 11].all (fun op => decide (9 ≤ (BitVec.ofNat 4 op).toNat ∧ (BitVec.ofNat 4 op).toNat ≤ 11)) ∧
    { State.reset with agenda := [.col (PortWord.ofOp 1)] }.agenda = [.col (PortWord.ofOp 1)] ∧
    { State.reset with agenda := [.fn (PortWord.ofOp 9)] }.agenda = [.fn (PortWord.ofOp 9)] := by decide

/-- Meets the hypotheses of each clause of `StepRunsTheDecodedOperation`. -/
theorem witness_StepRunsTheDecodedOperation :
    (let s : State := { State.reset with ds := .dispatching, rxResult := [0x04] };
      s.halted = false ∧ s.ds = .dispatching ∧ decode (.wire s.rxResult) = .ok (.getvalues []) ∧
      s.agenda = [] ∧ { s with agenda := [.eng] }.agenda = [.eng]) ∧
    (decode (.port (PortWord.ofOp 8)) = .ok (.deframe []) ∧ (PortWord.ofOp 8).op.toNat ≤ 8 ∧
      { State.reset with agenda := [.fn (PortWord.ofOp 8)] }.agenda = [.fn (PortWord.ofOp 8)]) ∧
    (decode (.port (PortWord.ofOp 0xB)) = .ok .setstop ∧ 9 ≤ (PortWord.ofOp 0xB).op.toNat ∧
      { State.reset with agenda := [.col (PortWord.ofOp 0xB)] }.agenda = [.col (PortWord.ofOp 0xB)]) :=
  ⟨⟨rfl, rfl, rfl, rfl, rfl⟩, ⟨rfl, by decide, rfl⟩, rfl, by decide, rfl⟩

/-- Meets the hypotheses of `PlacedTableWordIsWhatRuns`. -/
theorem witness_PlacedTableWordIsWhatRuns :
    decodeTableWord 24 0x246518 = some (.poll []) ∧ tableCode 24 0x246518 = .wire [0x24, 0x65, 0x18] ∧
    decodeTableWord 8 0xB = some .setstop ∧ tableCode 8 0xB = .port (PortWord.ofOp 0xB) := by decide

/-- Meets the hypotheses of `WellFormedOperationsComplete`. -/
theorem witness_WellFormedOperationsComplete :
    (Instr.reframe (List.replicate 255 0)).wellFormed = true ∧ (Instr.encfx32 one 1).wellFormed = true ∧
    (Instr.sett 16 (.u8 1)).wellFormed = true ∧ (Instr.setp 0 (.u8 1)).wellFormed = true :=
  by decide +kernel

/-- Meets the hypotheses of `EngineWithoutAStepWaits`, with the turn from an empty agenda and from an entry. -/
theorem witness_EngineWithoutAStepWaits :
    (idle []).EngineTurn [] ∧ { idle [] with agenda := [.eng, .linkTake] }.EngineTurn [.linkTake] ∧
    (idle []).ds = .awaitingFrame ∧ (idle []).rxq = [] ∧
    { State.reset with halted := true }.halted = true :=
  ⟨.inl ⟨rfl, rfl⟩, .inr rfl, by decide⟩

/-- A state in the middle of a frame, with an overflow in its trace, meets the invariant. -/
theorem midFrame_inv :
    { midFrame with ev := [.malformed], status := 1 }.Inv := by
  refine ⟨⟨by decide, by decide, by decide, by decide, by decide⟩, by decide, by decide, by decide, by decide,
    by decide⟩

/-- Meets the hypotheses of `StepKeepsTheInvariant`. -/
theorem witness_StepKeepsTheInvariant :
    { midFrame with ev := [.malformed], status := 1 }.Inv ∧
    ∃ t, step { midFrame with ev := [.malformed], status := 1 } = .next t ∧ t.rxCnt = 3 :=
  ⟨midFrame_inv, _, rfl, rfl⟩

/-- Meets the hypotheses of both clauses of `InvariantStatesNeverFault`. -/
theorem witness_InvariantStatesNeverFault :
    { midFrame with ev := [.malformed], status := 1 }.Inv ∧
    { midFrame with ev := [.malformed], status := 1 }.agenda = [] := ⟨midFrame_inv, rfl⟩

/-- Meets the hypotheses of each clause of `OnlyTheCollaboratorWritesTheRecords`. -/
theorem witness_OnlyTheCollaboratorWritesTheRecords :
    (∃ t, step { State.reset with
        agenda := [.col { PortWord.ofOp 0x9 with index := 0, value := .u8 4 }] } = .next t ∧
      t.telem ≠ State.reset.telem) ∧
    (∃ t, step { State.reset with
        agenda := [.col { PortWord.ofOp 0xA with index := 0, value := .u8 4 }] } = .next t ∧
      t.poll ≠ State.reset.poll) ∧
    ∃ t, step { State.reset with agenda := [.col (PortWord.ofOp 0xB)] } = .next t ∧
      t.stop ≠ State.reset.stop :=
  ⟨⟨_, rfl, by decide⟩, ⟨_, rfl, by decide⟩, _, rfl, by decide⟩

/-- Meets the hypothesis of `TraceGrowsAndFlagsAreSticky`, with an event that sets a flag. -/
theorem witness_TraceGrowsAndFlagsAreSticky :
    ∃ t, step (lastByte 0x04) = .next t ∧ t.ev = [.malformed] := ⟨_, rfl, rfl⟩

/-- Meets the hypothesis of `OutboundStreamChangesOnlyAtItsEnds`, with each kind of change. -/
theorem witness_OutboundStreamChangesOnlyAtItsEnds :
    (∃ t, step (replying [] false) = .next t ∧ t.txq = [0x02, 0x00, 0x00, 0x00, 0x03]) ∧
    ∃ t, step { State.reset with agenda := [.linkTake], txq := [0x02] } = .next t ∧ t.txq = [] :=
  ⟨⟨_, rfl, rfl⟩, _, rfl, rfl⟩

/-- Meets the hypotheses of `UnreadLatchesHaveNoEffect` with two different states. -/
theorem witness_UnreadLatchesHaveNoEffect :
    State.SameButUnread midFrame
      { midFrame with
        rxBuf := [(0, 0x04), (1, 0x40), (9, 0x77)], rxResult := [0x01], txPayload := [0x02], txFi := true } ∧
    ∃ t, step midFrame = .next t :=
  ⟨⟨[(0, 0x04), (1, 0x40), (9, 0x77)], [0x01], [0x02], true, rfl, by decide, by decide, by decide⟩, _, rfl⟩

end Sys2Proof.Tests
end

section
/-! PROOFS. The local port (R75, R76, R205): which selects decode, to whose operation, and what a step does
with a word put on the port. -/

namespace Sys2Proof.Machine

/-- A select 1 to 11 is one of the eleven rows of R75, none of the reserved ones (R76). -/
theorem exists_decodePort_eq_ok {w : PortWord} (hlo : 1 ≤ w.op.toNat) (hhi : w.op.toNat ≤ 11) :
    ∃ i, decodePort w = .ok i := by
  unfold decodePort
  split
  case h_12 => simp only [imp_false] at *; bv_omega
  all_goals exact ⟨_, rfl⟩

/-- The select alone fixes the agent of the operation it decodes to: FN up to 8, COL beyond (R75, R205). -/
theorem portAgent_of_decodePort {w : PortWord} {i : Instr} (h : decodePort w = .ok i) :
    Instr.portAgent i = some (if w.op.toNat ≤ 8 then .fn else .col) := by
  unfold decodePort at h
  split at h <;> rename_i hop
  case h_12 => cases h
  all_goals
    cases h
    simp [hop, Instr.portAgent]

/-- An operation of another agent than the one that puts its word on the port is refused (R205). -/
theorem portTurn_eq_refused {a : PortAgent} {w : PortWord} {i : Instr} (s : State)
    (hd : decodePort w = .ok i) (ha : Instr.portAgent i ≠ some a) :
    portTurn a w s = .done (.refused .accessRights) := by
  simp only [portTurn, hd, if_neg ha]

/-- With a word of COL at the head of the agenda, a step is COL's turn on the port (R6). -/
theorem step_of_col {s : State} {w : PortWord} {rest : List Action} (h : s.agenda = .col w :: rest) :
    step s = (portTurn .col w { s with agenda := rest }).outcome := by
  rw [step_eq_outcome, nextTurn, h]; rfl

/-- With a word of FN at the head of the agenda, a step is FN's turn on the port (R6). -/
theorem step_of_fn {s : State} {w : PortWord} {rest : List Action} (h : s.agenda = .fn w :: rest) :
    step s = (portTurn .fn w { s with agenda := rest }).outcome := by
  rw [step_eq_outcome, nextTurn, h]; rfl

/-- Settles O47: the select decodes to an operation of the other agent, and such a word is refused. -/
theorem portRightsAreEnforced : Obligations.PortRightsAreEnforced := by
  intro s w rest
  constructor
  · intro hcol hlo hhi
    obtain ⟨i, hd⟩ := exists_decodePort_eq_ok hlo (by omega)
    have hfn : Instr.portAgent i = some .fn := by rw [portAgent_of_decodePort hd, if_pos hhi]
    rw [step_of_col hcol, portTurn_eq_refused _ hd (by simp [hfn])]
    rfl
  · intro hfn hlo hhi
    obtain ⟨i, hd⟩ := exists_decodePort_eq_ok (by omega) hhi
    have hcol : Instr.portAgent i = some .col := by
      rw [portAgent_of_decodePort hd, if_neg (by omega)]
    rw [step_of_fn hfn, portTurn_eq_refused _ hd (by simp [hcol])]
    rfl

end Sys2Proof.Machine
end

section
/-! PROOFS. What each turn does, one equation per case (R17, R143 to R146, R170, R171, R177): the converse of the
inversions of Laws/Turn.lean. -/

namespace Sys2Proof.Machine

/-- With an entry at the head of the agenda, a step is the turn it stands for (R6). -/
theorem step_of_agenda {s : State} {a : Action} {rest : List Action} (h : s.agenda = a :: rest) :
    step s = (actionTurn a { s with agenda := rest }).outcome := by
  rw [step_eq_outcome, nextTurn, h]

/-- A halted engine's turn passes (R24; log 8). -/
theorem engTurn_of_halted {s : State} (h : s.halted = true) : engTurn s = .done (.next s) := by
  rw [engTurn, if_pos h]

/-- The turn of an engine that awaits a byte passes while `RXQ` is empty (R17; log 8). -/
theorem engTurn_of_rxq_nil {s : State} (hd : s.ds = .awaitingFrame) (hq : s.rxq = []) :
    engTurn s = .done (.next s) := by
  simp only [engTurn, hd, hq, ite_self]

/-- The turn of a running engine at the loop top (R171). -/
theorem engTurn_of_loopTop {s : State} (hh : s.halted = false) (hd : s.ds = .loopTop) :
    engTurn s = .done (.next (loopTopStep s)) := by
  simp only [engTurn, hh, hd, Bool.false_eq_true, if_false]

/-- The turn of a running engine with a byte to read (R143). -/
theorem engTurn_of_rxq_cons {s : State} {x : Byte} {q : List Byte} (hh : s.halted = false)
    (hd : s.ds = .awaitingFrame) (hq : s.rxq = x :: q) :
    engTurn s = .done (rxByteStep x { s with rxq := q }) := by
  simp only [engTurn, hh, hd, hq, Bool.false_eq_true, if_false]

/-- The turn of a running engine with a payload to dispatch (R180). -/
theorem engTurn_of_dispatching {s : State} (hh : s.halted = false) (hd : s.ds = .dispatching) :
    engTurn s = .run (classify s.rxResult) s := by
  simp only [engTurn, hh, hd, Bool.false_eq_true, if_false]

/-- The turn of a running engine with a reply to send (R177). -/
theorem engTurn_of_responding {s : State} (hh : s.halted = false) (hd : s.ds = .responding) :
    engTurn s = .done (respondStep Config.fiPresent s) := by
  simp only [engTurn, hh, hd, Bool.false_eq_true, if_false]

/-- A byte in phase `HUNT` (R143). -/
theorem rxByteStep_of_hunt {s : State} (x : Byte) (hp : s.rxPhase = .hunt) :
    rxByteStep x s = .next (if x = 0x02 then { s with rxPhase := .len } else s) := by
  simp only [rxByteStep, hp]
  rfl

/-- A byte in phase `LEN` (R144). -/
theorem rxByteStep_of_len {s : State} (x : Byte) (hp : s.rxPhase = .len) :
    rxByteStep x s = .next { s with rxLen := x, rxCnt := 0, rxPhase := .body } := by
  simp only [rxByteStep, hp]

/-- A byte of the body that is not the last is stored and counted (R145). -/
theorem rxByteStep_of_body {s : State} (x : Byte) (hp : s.rxPhase = .body) (hc : s.rxCnt < 258)
    (hl : s.rxCnt + 1 ≠ s.rxLen.toNat + 3) :
    rxByteStep x s = .next { s with rxBuf := s.rxBuf.insert s.rxCnt x, rxCnt := s.rxCnt + 1 } := by
  have hw := (rxBufWrite_ok_iff s.rxBuf _ s.rxCnt x).2 ⟨hc, rfl⟩
  simp only [rxByteStep, hp, rxBodyStep, hw, if_neg hl]

/-- The last byte of the body is stored, and the frame judged and handed over (R146, R179). -/
theorem rxByteStep_of_last {s : State} (x : Byte) {body : List Byte} (hp : s.rxPhase = .body)
    (hc : s.rxCnt < 258) (hl : s.rxCnt + 1 = s.rxLen.toNat + 3)
    (hbody : rxBufSlice (s.rxBuf.insert s.rxCnt x) 0 (s.rxLen.toNat + 3) = .ok body) :
    rxByteStep x s =
      .next (handOver (checkBody s.rxLen.toNat body)
        { s with rxBuf := s.rxBuf.insert s.rxCnt x, rxCnt := s.rxCnt + 1, rxPhase := .hunt }) := by
  have hw := (rxBufWrite_ok_iff s.rxBuf _ s.rxCnt x).2 ⟨hc, rfl⟩
  simp only [rxByteStep, hp, rxBodyStep, hw, if_pos hl]
  exact completeFrame_eq hbody

/-- `Respond` sends the frame of the pending payload, with the right CRC since fault injection is absent
(R23, R177). -/
theorem respondStep_of_reframe {s : State} {f : List Byte} (hf : reframe s.txPayload = some f) :
    respondStep Config.fiPresent s = .next { s with txq := s.txq ++ f, ds := .loopTop } := by
  have hi : respondInjects Config.fiPresent s = false := rfl
  have hf' : frameWith (crc16 s.txPayload) s.txPayload = some f := hf
  simp only [respondStep, respondCrc, hi, Bool.false_and, Bool.false_eq_true, if_false, hf']

end Sys2Proof.Machine
end

section
/-! PROOFS. What one step changes (R6, R205): the changes an answering step can make, each under the agent
that makes it and with what was tested before it. The invariants of the block are case analyses of this. -/

namespace Sys2Proof.Machine

/-- The changes of a state by the turn of an agent, at the state whose agenda has lost the turn's entry.
`step_effect` says that every step which answers is one of these. -/
inductive Effect (s : State) : Action → State → Prop where
  /-- the engine is halted or waits for a byte (R24, R209) -/
  | wait (hw : s.halted = true ∨ (s.ds = .awaitingFrame ∧ s.rxq = [])) : Effect s .eng s
  /-- `LoopTop` with `stop` set (R171) -/
  | halt (hh : s.halted = false) (hd : s.ds = .loopTop) (hs : s.stop = true) :
    Effect s .eng { s with halted := true }
  /-- `LoopTop` with `stop` clear (R171) -/
  | await (hh : s.halted = false) (hd : s.ds = .loopTop) (hs : s.stop = false) :
    Effect s .eng { s with ds := .awaitingFrame }
  /-- a byte that is no start marker is discarded (R143) -/
  | skipByte {b : Byte} {q : List Byte} (hh : s.halted = false) (hd : s.ds = .awaitingFrame)
    (hp : s.rxPhase = .hunt) (hq : s.rxq = b :: q) (hb : b ≠ 0x02) : Effect s .eng { s with rxq := q }
  /-- the start marker (R143) -/
  | startFrame {q : List Byte} (hh : s.halted = false) (hd : s.ds = .awaitingFrame)
    (hp : s.rxPhase = .hunt) (hq : s.rxq = 0x02 :: q) : Effect s .eng { s with rxq := q, rxPhase := .len }
  /-- the length byte (R144) -/
  | takeLength {b : Byte} {q : List Byte} (hh : s.halted = false) (hd : s.ds = .awaitingFrame)
    (hp : s.rxPhase = .len) (hq : s.rxq = b :: q) :
    Effect s .eng { s with rxq := q, rxLen := b, rxCnt := 0, rxPhase := .body }
  /-- a byte of the body that is not the last (R145) -/
  | storeByte {b : Byte} {q : List Byte} (hh : s.halted = false) (hd : s.ds = .awaitingFrame)
    (hp : s.rxPhase = .body) (hq : s.rxq = b :: q) (hc : s.rxCnt < 258)
    (hl : s.rxCnt + 1 ≠ s.rxLen.toNat + 3) :
    Effect s .eng { s with rxq := q, rxBuf := s.rxBuf.insert s.rxCnt b, rxCnt := s.rxCnt + 1 }
  /-- the last byte of a good frame (R146, R179) -/
  | goodFrame {b : Byte} {q p : List Byte} (hh : s.halted = false) (hd : s.ds = .awaitingFrame)
    (hp : s.rxPhase = .body) (hq : s.rxq = b :: q) (hc : s.rxCnt < 258)
    (hl : s.rxCnt + 1 = s.rxLen.toNat + 3) (hr : p.length = s.rxLen.toNat) :
    Effect s .eng
      { s with
        rxq := q, rxBuf := s.rxBuf.insert s.rxCnt b, rxCnt := s.rxCnt + 1, rxPhase := .hunt
        rxResult := p, ds := .dispatching }
  /-- the last byte of a bad frame (R146, R179, R201) -/
  | badFrame {b : Byte} {q : List Byte} (e : Event) (hh : s.halted = false) (hd : s.ds = .awaitingFrame)
    (hp : s.rxPhase = .body) (hq : s.rxq = b :: q) (hc : s.rxCnt < 258)
    (hl : s.rxCnt + 1 = s.rxLen.toNat + 3) (he : e = .malformed ∨ ∃ x y, e = .crcMismatch x y) :
    Effect s .eng
      (dropFrame e
        { s with
          rxq := q, rxBuf := s.rxBuf.insert s.rxCnt b, rxCnt := s.rxCnt + 1, rxPhase := .hunt })
  /-- `GETVALUES` is dispatched (R172) -/
  | replyTelem (hh : s.halted = false) (hd : s.ds = .dispatching) :
    Effect s .eng
      (handReply (encodeTelem s.telem).bytes false
        (raiseAll (overflowEvents .telem (encodeTelem s.telem)) s))
  /-- `POLL` is dispatched (R173) -/
  | replyPoll (hh : s.halted = false) (hd : s.ds = .dispatching) :
    Effect s .eng
      (handReply (encodePoll s.poll).bytes true (raiseAll (overflowEvents .poll (encodePoll s.poll)) s))
  /-- a command without a reply is dispatched (R174 to R176) -/
  | noReply (e : Event) (hh : s.halted = false) (hd : s.ds = .dispatching)
    (he : e = .unknownCommand s.rxResult ∨ ∃ c, e = .knownNoReply c) : Effect s .eng (dropFrame e s)
  /-- `Respond` (R177) -/
  | respond {f : List Byte} (hh : s.halted = false) (hd : s.ds = .responding)
    (hf : reframe s.txPayload = some f) : Effect s .eng { s with txq := s.txq ++ f, ds := .loopTop }
  /-- `SETT` (R13) -/
  | sett {w : PortWord} {i : Nat} {v : FieldVal} {t : Telem} (hw : decodePort w = .ok (.sett i v))
    (ht : s.telem.set i v = some t) : Effect s (.col w) { s with telem := t }
  /-- `SETP` (R13) -/
  | setp {w : PortWord} {i : Nat} {v : FieldVal} {p : Poll} (hw : decodePort w = .ok (.setp i v))
    (hp : s.poll.set i v = some p) : Effect s (.col w) { s with poll := p }
  /-- `SETSTOP` (R178) -/
  | setstop {w : PortWord} (hw : decodePort w = .ok .setstop) : Effect s (.col w) { s with stop := true }
  /-- an operation of the function port (R75, R190) -/
  | fnPort {w : PortWord} (r : PortOut) (es : List Event) : Effect s (.fn w) (deliver r (raiseAll es s))
  /-- `LinkPut` (R17) -/
  | linkPut (b : Byte) : Effect s (.linkPut b) (linkPutStep b s)
  /-- `LinkTake` on an empty `TXQ` (log 8) -/
  | linkTakeNone (hq : s.txq = []) : Effect s .linkTake s
  /-- `LinkTake` (R17) -/
  | linkTake {b : Byte} {q : List Byte} (hq : s.txq = b :: q) :
    Effect s .linkTake { s with txq := q, linkOut := some b }
  /-- `LinkFail` (R204) -/
  | linkFail : Effect s .linkFail (linkFailStep s)
  /-- the configuration input (R23) -/
  | cfgInput (b : Bool) : Effect s (.cfgInput b) s

/-- What an operation of the function port can do: raise events and deliver a result (R75, R190). -/
theorem exec_fn_eq {i : Instr} {s t : State} (hi : Instr.portAgent i = some .fn)
    (h : exec i s = .next t) : ∃ r es, t = deliver r (raiseAll es s) := by
  cases i with
  | getvalues _ | poll _ | chgstate _ | lcmdebug _ | unknown _ | sett _ _ | setp _ _ | setstop =>
    simp [Instr.portAgent] at hi
  | crc16 bytes => cases h; exact ⟨_, [], rfl⟩
  | encfx8 v scale | encfx16 v scale | encfx32 v scale =>
    simp only [exec, execEncfx8, execEncfx16, execEncfx32, encodeOnPort] at h
    split at h <;> cases h
    exact ⟨_, _, rfl⟩
  | enctelem | encpoll | deframe _ => cases h; exact ⟨_, _, rfl⟩
  | reframe p =>
    simp only [exec, execReframe] at h
    split at h <;> cases h
    exact ⟨_, [], rfl⟩

/-- What an operation of the collaborator can do: write one of `T`, `P` and `stop` (R13, R178). -/
theorem exec_col_cases {i : Instr} {s t : State} (hi : Instr.portAgent i = some .col)
    (h : exec i s = .next t) :
    (∃ j v tl, i = .sett j v ∧ s.telem.set j v = some tl ∧ t = { s with telem := tl }) ∨
    (∃ j v p, i = .setp j v ∧ s.poll.set j v = some p ∧ t = { s with poll := p }) ∨
    (i = .setstop ∧ t = { s with stop := true }) := by
  cases i with
  | getvalues _ | poll _ | chgstate _ | lcmdebug _ | unknown _ | crc16 _ | encfx8 _ _ | encfx16 _ _
  | encfx32 _ _ | enctelem | encpoll | reframe _ | deframe _ => simp [Instr.portAgent] at hi
  | sett j v =>
    simp only [exec, execSett] at h
    split at h <;> cases h
    exact .inl ⟨j, v, _, rfl, ‹_›, rfl⟩
  | setp j v =>
    simp only [exec, execSetp] at h
    split at h <;> cases h
    exact .inr (.inl ⟨j, v, _, rfl, ‹_›, rfl⟩)
  | setstop => cases h; exact .inr (.inr ⟨rfl, rfl⟩)

/-- A dispatched command is one of the effects `replyTelem`, `replyPoll` and `noReply` (R172 to R176). -/
theorem effect_of_dispatch {s t : State} (hh : s.halted = false) (hd : s.ds = .dispatching)
    (h : exec (classify s.rxResult) s = .next t) : Effect s .eng t := by
  rcases exec_wire_cases h with rfl | rfl | rfl | rfl | rfl
  · exact .replyTelem hh hd
  · exact .replyPoll hh hd
  · exact .noReply _ hh hd (.inr ⟨_, rfl⟩)
  · exact .noReply _ hh hd (.inr ⟨_, rfl⟩)
  · exact .noReply _ hh hd (.inl rfl)

/-- A byte popped from `RXQ` is one of the effects of `RxByte` (R143 to R146, R179). -/
theorem effect_of_rxByte {s t : State} {b : Byte} {q : List Byte} (hh : s.halted = false)
    (hd : s.ds = .awaitingFrame) (hq : s.rxq = b :: q) (h : rxByteStep b { s with rxq := q } = .next t) :
    Effect s .eng t := by
  rcases rxByteStep_cases h with
    ⟨hp, ⟨rfl, rfl⟩ | ⟨hb, rfl⟩⟩ | ⟨hp, rfl⟩ | ⟨hp, hc, ⟨hl, rfl⟩ | ⟨hl, body, hbody, rfl⟩⟩
  · exact .startFrame hh hd hp hq
  · exact .skipByte hh hd hp hq hb
  · exact .takeLength hh hd hp hq
  · exact .storeByte hh hd hp hq hc hl
  · have hlen := rxBufSlice_length _ _ _ _ hbody
    rcases handOver_cases (checkBody s.rxLen.toNat body) _ with
      ⟨p, hr, ht⟩ | ⟨-, ht⟩ | ⟨x, y, -, ht⟩ | ⟨hr, -⟩
    · rw [ht]; exact .goodFrame hh hd hp hq hc hl (checkBody_ok_length _ _ _ hlen hr)
    · rw [ht]; exact .badFrame _ hh hd hp hq hc hl (.inl rfl)
    · rw [ht]; exact .badFrame _ hh hd hp hq hc hl (.inr ⟨x, y, rfl⟩)
    · exact absurd hr (checkBody_ne_pending _ _)

/-- An engine turn that answers is one of the engine's effects (R170). -/
theorem effect_of_engTurn {s t : State} (h : (engTurn s).outcome = .next t) : Effect s .eng t := by
  rcases engTurn_cases h with
    ⟨hw, rfl⟩ | ⟨hh, hd, rfl⟩ | ⟨hh, hd, b, q, hq, h⟩ | ⟨hh, hd, h⟩ | ⟨hh, hd, h⟩
  · exact .wait hw
  · unfold loopTopStep
    split
    next hs => exact .halt hh hd hs
    next hs => exact .await hh hd (eq_false_of_ne_true hs)
  · exact effect_of_rxByte hh hd hq h
  · exact effect_of_dispatch hh hd h
  · obtain ⟨f, hf, rfl⟩ := respondStep_next h
    exact .respond hh hd hf

/-- A word of COL that is answered is `SETT`, `SETP` or `SETSTOP` (R205). -/
theorem effect_of_col {s t : State} {w : PortWord} {i : Instr} (hw : decodePort w = .ok i)
    (hi : Instr.portAgent i = some .col) (h : exec i s = .next t) : Effect s (.col w) t := by
  rcases exec_col_cases hi h with ⟨j, v, tl, rfl, htl, rfl⟩ | ⟨j, v, p, rfl, hp, rfl⟩ | ⟨rfl, rfl⟩
  · exact .sett hw htl
  · exact .setp hw hp
  · exact .setstop hw

theorem effect_of_linkTake (s : State) : Effect s .linkTake (linkTakeStep s) := by
  unfold linkTakeStep
  split
  · exact .linkTakeNone ‹_›
  · exact .linkTake ‹_›

/-- The turn is the agent's of action `a`, with the turns `turns` to come after it: the head of the agenda,
or the engine's where the agenda is empty (R6; log 7). -/
def State.HasTurn (s : State) (a : Action) (turns : List Action) : Prop :=
  s.agenda = a :: turns ∨ (s.agenda = [] ∧ a = .eng ∧ turns = [])

theorem State.HasTurn.tail_eq {s : State} {a : Action} {turns : List Action} (h : s.HasTurn a turns) :
    s.agenda.tail = turns := by
  rcases h with h | ⟨h, -, rfl⟩ <;> rw [h] <;> rfl

/-- A turn that is not the engine's stands in the agenda. -/
theorem State.HasTurn.agenda_eq {s : State} {a : Action} {turns : List Action} (h : s.HasTurn a turns)
    (ha : a ≠ .eng) : s.agenda = a :: turns :=
  h.resolve_right fun h' => ha h'.2.1

/-- Every step that answers has the effect of one turn, at the state without the turn's entry. -/
theorem step_effect {s t : State} (h : step s = .next t) :
    ∃ a turns, s.HasTurn a turns ∧ Effect { s with agenda := turns } a t := by
  rcases step_cases h with ⟨ha, h⟩ | ⟨a, turns, ha, h⟩
  · have hs : { s with agenda := [] } = s := by cases s; cases ha; rfl
    exact ⟨.eng, [], .inr ⟨ha, rfl, rfl⟩, by rw [hs]; exact effect_of_engTurn h⟩
  · refine ⟨a, turns, .inl ha, ?_⟩
    rcases h with ⟨rfl, h⟩ | ⟨w, i, rfl, hw, hi, h⟩ | ⟨w, i, rfl, -, hi, h⟩ | ⟨b, rfl, rfl⟩ | ⟨rfl, rfl⟩ |
      ⟨rfl, rfl⟩ | ⟨b, rfl, rfl⟩
    · exact effect_of_engTurn h
    · exact effect_of_col hw hi h
    · obtain ⟨r, es, rfl⟩ := exec_fn_eq hi h
      exact .fnPort r es
    · exact .linkPut b
    · exact effect_of_linkTake _
    · exact .linkFail
    · exact .cfgInput b

end Sys2Proof.Machine
end

section
/-! PROOFS. The trace and its flags (R22, R25, R190): every step raises some events and nothing else touches
`EV` or `STATUS`. -/

namespace Sys2Proof.Machine

/-- A step from `s` to `t` appends the events `es` to the trace and sets their flags (R190). -/
def Raises (s t : State) (es : List Event) : Prop :=
  t.ev = s.ev ++ es ∧ t.status = es.foldl setFlag s.status

/-- The mask of an event has its flag's bit alone (R22). -/
theorem getLsbD_statusMask (e : Event) {k : Nat} (hk : k < 4) :
    e.statusMask.getLsbD k = (e.flag == some k) := by
  unfold Event.statusMask
  cases e.flag with
  | none => simp
  | some j =>
    have hbit : (¬k < j ∧ k - j = 0) ↔ j = k := by omega
    rw [BitVec.getLsbD_shiftLeft, BitVec.getLsbD_one, Bool.eq_iff_iff]
    simpa [hk] using hbit

/-- Setting an event's flag sets its bit of `STATUS` and leaves the others (R22). -/
theorem getLsbD_setFlag (x : BitVec 4) (e : Event) {k : Nat} (hk : k < 4) :
    (setFlag x e).getLsbD k = (x.getLsbD k || e.flag == some k) := by
  rw [setFlag, BitVec.getLsbD_or, getLsbD_statusMask e hk]

/-- The bits of `STATUS` after several events (R22). -/
theorem getLsbD_foldl_setFlag (es : List Event) (x : BitVec 4) {k : Nat} (hk : k < 4) :
    (es.foldl setFlag x).getLsbD k = (x.getLsbD k || es.any fun e => e.flag == some k) := by
  induction es generalizing x with
  | nil => simp
  | cons e es ih => rw [List.foldl_cons, ih, getLsbD_setFlag x e hk, List.any_cons, Bool.or_assoc]

theorem Raises.getLsbD_status {s t : State} {es : List Event} (h : Raises s t es) {k : Nat} (hk : k < 4) :
    t.status.getLsbD k = (s.status.getLsbD k || es.any fun e => e.flag == some k) := by
  rw [h.2, getLsbD_foldl_setFlag es _ hk]

theorem raises_of_same {s t : State} (hev : t.ev = s.ev) (hst : t.status = s.status) : Raises s t [] :=
  ⟨by rw [hev, List.append_nil], hst⟩

/-- Every effect raises some events, most of them none. -/
theorem Effect.raises {s t : State} {a : Action} (h : Effect s a t) : ∃ es, Raises s t es := by
  cases h with
  | wait | halt | await | skipByte | startFrame | takeLength | storeByte | goodFrame | respond | sett | setp
  | setstop | linkPut | linkTakeNone | linkTake | cfgInput => exact ⟨[], raises_of_same rfl rfl⟩
  | badFrame e | noReply e => exact ⟨[e], rfl, rfl⟩
  | linkFail => exact ⟨[.transportError], rfl, rfl⟩
  | replyTelem | replyPoll | fnPort => exact ⟨_, raiseAll_ev _ _, raiseAll_status _ _⟩

/-- Every step raises some events (R190). -/
theorem step_raises {s t : State} (h : step s = .next t) : ∃ es, Raises s t es := by
  obtain ⟨_, _, -, heff⟩ := step_effect h
  exact heff.raises

/-- Settles O57: the events are those the step raises. -/
theorem traceGrowsAndFlagsAreSticky : Obligations.TraceGrowsAndFlagsAreSticky := by
  intro s t h
  obtain ⟨es, hes⟩ := step_raises h
  exact ⟨es, hes.1, fun _ => hes.getLsbD_status⟩

end Sys2Proof.Machine
end

section
/-! PROOFS. The invariant of the block (R18, R20, R24, R26, R67): reset meets it and every step keeps it. -/

namespace Sys2Proof.Machine

/-- The encoding of a telemetry record is 54 bytes long (R127). -/
theorem encodeTelem_length (t : Telem) : (encodeTelem t).bytes.length = 54 := by
  simp only [encodeTelem_bytes, List.length_append, fx_bytes_length, FxWidth.bytes, List.length_cons,
    List.length_nil]

/-- The encoding of a poll record is 15 bytes long (R127). -/
theorem encodePoll_length (p : Poll) : (encodePoll p).bytes.length = 15 := by
  simp only [encodePoll_bytes, List.length_append, fx_bytes_length, FxWidth.bytes, List.length_cons,
    List.length_nil]

/-- The invariant without its clause on the flags, which `Raises` keeps whatever the step is. -/
structure State.ShapeInv (s : State) : Prop extends State.FrameInv s where
  haltedAtTop : s.halted = true → s.ds = .loopTop ∧ s.stop = true
  resultBound : s.ds = .dispatching → s.rxResult.length ≤ 255
  replyShape : s.ds = .responding →
    (s.txPayload.length = 54 ∧ s.txFi = false) ∨ (s.txPayload.length = 15 ∧ s.txFi = true)
  fiOff : s.cfgFiEn = false

/-- The invariant is its shape and its clause on the flags. -/
theorem State.inv_iff (s : State) :
    s.Inv ↔ s.ShapeInv ∧ ∀ k < 4, s.status.getLsbD k = s.ev.any fun e => e.flag == some k := by
  constructor
  · intro h
    exact ⟨⟨h.toFrameInv, h.haltedAtTop, h.resultBound, h.replyShape, h.fiOff⟩, h.flagsMatch⟩
  · rintro ⟨h, hflags⟩
    exact ⟨h.toFrameInv, h.haltedAtTop, h.resultBound, h.replyShape, h.fiOff, hflags⟩

theorem State.ShapeInv.setAgenda {s : State} (h : s.ShapeInv) (turns : List Action) :
    { s with agenda := turns }.ShapeInv :=
  ⟨⟨h.canonical, h.partialAwaits, h.countBound, h.countShort, h.countWritten⟩,
    h.haltedAtTop, h.resultBound, h.replyShape, h.fiOff⟩

/-- With the deframer in `HUNT` only the buffer and the count are constrained (R26). -/
theorem State.FrameInv.of_hunt {t : State} (hbuf : t.rxBuf.wf) (hcnt : t.rxCnt ≤ 258)
    (hp : t.rxPhase = .hunt) : t.FrameInv :=
  ⟨hbuf, fun h => absurd hp h, hcnt, fun h => by simp [hp] at h, fun h => by simp [hp] at h⟩

/-- A deframer that stands still keeps its part of the invariant if the sequencer does not leave
`AwaitingFrame`. -/
theorem State.FrameInv.of_same {s t : State} (h : s.FrameInv) (hbuf : t.rxBuf = s.rxBuf)
    (hp : t.rxPhase = s.rxPhase) (hcnt : t.rxCnt = s.rxCnt) (hlen : t.rxLen = s.rxLen)
    (hds : s.ds = .awaitingFrame → t.ds = .awaitingFrame) : t.FrameInv where
  canonical := by rw [hbuf]; exact h.canonical
  partialAwaits := by rw [hp]; exact fun hne => hds (h.partialAwaits hne)
  countBound := by rw [hcnt]; exact h.countBound
  countShort := by rw [hp, hcnt, hlen]; exact h.countShort
  countWritten := by rw [hp, hcnt, hbuf]; exact h.countWritten

/-- Outside `AwaitingFrame` the deframer hunts. -/
theorem State.FrameInv.hunt_of_ds_ne {s : State} (h : s.FrameInv) (hd : s.ds ≠ .awaitingFrame) :
    s.rxPhase = .hunt := by
  by_contra hp
  exact hd (h.partialAwaits hp)

/-- The bytes counted after a store are written: the new one by it, the others before (R146). -/
theorem lookup_insert_isSome {m : Memory} {n : Nat} (b : Byte) (h : ∀ k < n, (m.lookup k).isSome) :
    ∀ k < n + 1, ((m.insert n b).lookup k).isSome := by
  intro k hk
  by_cases hkn : k = n
  · simp [hkn]
  · rw [Memory.lookup_insert_ne m n k b hkn]
    exact h k (by omega)

/-- Every effect keeps the deframer's part of the invariant (R18, R26, R145, R146). -/
theorem Effect.frameInv {s t : State} {a : Action} (h : Effect s a t) (hs : s.FrameInv) : t.FrameInv := by
  have hins : ∀ {b : Byte}, s.rxCnt < 258 → (s.rxBuf.insert s.rxCnt b).wf :=
    fun hc => Memory.insert_wf _ _ _ hs.canonical hc
  cases h with
  | wait | linkTakeNone | cfgInput => exact hs
  | halt _ hd | await _ hd => exact hs.of_same rfl rfl rfl rfl (by simp [hd])
  | skipByte | sett | setp | setstop | linkPut | linkTake => exact hs.of_same rfl rfl rfl rfl id
  | fnPort => exact hs.of_same (by simp) (by simp) (by simp) (by simp) (by simp)
  | startFrame _ hd =>
    exact ⟨hs.canonical, fun _ => hd, hs.countBound, by simp, by simp⟩
  | takeLength _ hd => exact ⟨hs.canonical, fun _ => hd, by simp, by simp, by simp⟩
  | storeByte _ hd hp _ hc hl =>
    have := hs.countShort hp
    exact ⟨hins hc, fun _ => hd, hc, fun _ => by simp only; omega,
      fun _ => lookup_insert_isSome _ (hs.countWritten hp)⟩
  | goodFrame _ _ _ _ hc => exact .of_hunt (hins hc) hc rfl
  | badFrame _ _ _ _ _ hc => exact .of_hunt (hins hc) hc rfl
  | replyTelem _ hd | replyPoll _ hd | noReply _ _ hd | respond _ hd =>
    exact .of_hunt (by simpa using hs.canonical) (by simpa using hs.countBound)
      (by simpa using hs.hunt_of_ds_ne (by simp [hd]))
  | linkFail => exact .of_hunt Memory.nil_wf (by simp) rfl

/-- Every effect keeps the invariant but for the flags (R20, R23, R24, R67). -/
theorem Effect.shapeInv {s t : State} {a : Action} (h : Effect s a t) (hs : s.ShapeInv) : t.ShapeInv := by
  have hf := h.frameInv hs.toFrameInv
  obtain ⟨-, htop, hres, hrep, hfi⟩ := hs
  cases h with
  | wait | skipByte | startFrame | takeLength | storeByte | sett | setp | linkPut | linkTakeNone | linkTake
  | cfgInput => exact ⟨hf, htop, hres, hrep, hfi⟩
  | setstop => exact ⟨hf, fun h => ⟨(htop h).1, rfl⟩, hres, hrep, hfi⟩
  | fnPort => exact ⟨hf, by simpa using htop, by simpa using hres, by simpa using hrep, by simpa using hfi⟩
  | halt _ hd hstop => exact ⟨hf, fun _ => ⟨hd, hstop⟩, hres, hrep, hfi⟩
  | await hh | respond hh | badFrame _ hh | noReply _ hh =>
    exact ⟨hf, by simp [hh], by simp, by simp, hfi⟩
  | goodFrame hh _ _ _ _ _ hlen =>
    exact ⟨hf, by simp [hh], fun _ => by simp only [hlen]; omega, by simp, hfi⟩
  | replyTelem hh =>
    exact ⟨hf, by simp [hh], by simp, fun _ => .inl ⟨encodeTelem_length _, rfl⟩, by simpa using hfi⟩
  | replyPoll hh =>
    exact ⟨hf, by simp [hh], by simp, fun _ => .inr ⟨encodePoll_length _, rfl⟩, by simpa using hfi⟩
  | linkFail => exact ⟨hf, fun h => ⟨rfl, (htop h).2⟩, by simp, by simp, hfi⟩

/-- The flags stay the flags of the trace, whatever events a step raises (R22, R190). -/
theorem Raises.flagsMatch {s t : State} {es : List Event} (h : Raises s t es)
    (hs : ∀ k < 4, s.status.getLsbD k = s.ev.any fun e => e.flag == some k) :
    ∀ k < 4, t.status.getLsbD k = t.ev.any fun e => e.flag == some k := by
  intro k hk
  rw [h.getLsbD_status hk, hs k hk, h.1, List.any_append]

/-- Settles O54: the effect of the step keeps the shape, and its events keep the flags. -/
theorem stepKeepsTheInvariant : Obligations.StepKeepsTheInvariant := by
  intro s t hs h
  obtain ⟨hshape, hflags⟩ := s.inv_iff.1 hs
  obtain ⟨es, hes⟩ := step_raises h
  obtain ⟨a, turns, -, heff⟩ := step_effect h
  exact t.inv_iff.2 ⟨heff.shapeInv (hshape.setAgenda turns), hes.flagsMatch hflags⟩

/-- Settles O53. -/
theorem resetMeetsTheInvariant : Obligations.ResetMeetsTheInvariant where
  toFrameInv := .of_hunt reset_rxBuf_wf (Nat.zero_le _) rfl
  haltedAtTop := by simp [State.reset]
  resultBound := by simp [State.reset]
  replyShape := by simp [State.reset]
  fiOff := rfl
  flagsMatch := by simp [State.reset]

end Sys2Proof.Machine
end

section
/-! PROOFS. Who changes what (R14, R17, R24, R205): the records, `TXQ`, and what a halted engine leaves
alone, read off the effects of a step. -/

namespace Sys2Proof.Machine

theorem op_of_decodePort_sett {w : PortWord} {i : Nat} {v : FieldVal}
    (h : decodePort w = .ok (.sett i v)) : w.op = 0x9 := by
  unfold decodePort at h
  split at h <;> cases h
  assumption

theorem op_of_decodePort_setp {w : PortWord} {i : Nat} {v : FieldVal}
    (h : decodePort w = .ok (.setp i v)) : w.op = 0xA := by
  unfold decodePort at h
  split at h <;> cases h
  assumption

theorem op_of_decodePort_setstop {w : PortWord} (h : decodePort w = .ok .setstop) : w.op = 0xB := by
  unfold decodePort at h
  split at h <;> cases h
  assumption

/-- Only `SETT` changes `T`, only `SETP` changes `P`, only `SETSTOP` changes `stop` (R14). -/
theorem Effect.writers {s t : State} {a : Action} (h : Effect s a t) :
    (t.telem ≠ s.telem → ∃ w, a = .col w ∧ w.op = 0x9) ∧
    (t.poll ≠ s.poll → ∃ w, a = .col w ∧ w.op = 0xA) ∧
    (t.stop ≠ s.stop → ∃ w, a = .col w ∧ w.op = 0xB) := by
  cases h with
  | sett hw => exact ⟨fun _ => ⟨_, rfl, op_of_decodePort_sett hw⟩, absurd rfl, absurd rfl⟩
  | setp hw => exact ⟨absurd rfl, fun _ => ⟨_, rfl, op_of_decodePort_setp hw⟩, absurd rfl⟩
  | setstop hw => exact ⟨absurd rfl, absurd rfl, fun _ => ⟨_, rfl, op_of_decodePort_setstop hw⟩⟩
  | _ => simp

/-- Settles O56: the writer's word is the turn the step took from the agenda. -/
theorem onlyTheCollaboratorWritesTheRecords : Obligations.OnlyTheCollaboratorWritesTheRecords := by
  intro s t h
  obtain ⟨a, turns, hturn, heff⟩ := step_effect h
  have inAgenda : ∀ {op : BitVec 4}, (∃ w, a = .col w ∧ w.op = op) →
      ∃ w rest, s.agenda = .col w :: rest ∧ w.op = op := by
    rintro op ⟨w, rfl, hop⟩
    exact ⟨w, turns, hturn.agenda_eq (by simp), hop⟩
  obtain ⟨htelem, hpoll, hstop⟩ := heff.writers
  exact ⟨inAgenda ∘ htelem, inAgenda ∘ hpoll, inAgenda ∘ hstop⟩

/-- What an effect does to `TXQ`: nothing, or the whole reply frame comes, or the head goes (R17, R177). -/
theorem Effect.txq_cases {s t : State} {a : Action} (h : Effect s a t) :
    t.txq = s.txq ∨
    (∃ b, a = .linkTake ∧ s.txq = b :: t.txq) ∨
    (∃ f, s.ds = .responding ∧ s.halted = false ∧ reframe s.txPayload = some f ∧ t.txq = s.txq ++ f ∧
      t.ds = .loopTop) := by
  cases h with
  | respond hh hd hf => exact .inr (.inr ⟨_, hd, hh, hf, rfl, rfl⟩)
  | linkTake hq => exact .inr (.inl ⟨_, rfl, hq⟩)
  | _ => exact .inl (by simp)

/-- Settles O58. -/
theorem outboundStreamChangesOnlyAtItsEnds : Obligations.OutboundStreamChangesOnlyAtItsEnds := by
  intro s t h
  obtain ⟨a, turns, hturn, heff⟩ := step_effect h
  rcases heff.txq_cases with hsame | ⟨b, rfl, hq⟩ | hsent
  · exact .inl hsame
  · exact .inr (.inl ⟨b, turns, hturn.agenda_eq (by simp), hq⟩)
  · exact .inr (.inr hsent)

/-- Settles O38: of the effects on a halted state only `LinkFail` reaches the engine's part of it. -/
theorem haltedEngineDoesNothing : Obligations.HaltedEngineDoesNothing := by
  intro s t h hh hfail
  obtain ⟨a, turns, hturn, heff⟩ := step_effect h
  cases heff with
  | halt hr | await hr | skipByte hr | startFrame hr | takeLength hr | storeByte hr | goodFrame hr
  | badFrame _ hr | replyTelem hr | replyPoll hr | noReply _ hr | respond hr => simp [hh] at hr
  | linkFail => exact absurd (hturn.agenda_eq (by simp)) (hfail turns)
  | linkTake hq => simp only at hq; simp [hh, hq]
  | wait | sett | setp | setstop | fnPort | linkPut | linkTakeNone | cfgInput => simp [hh]

/-- Only `LoopTop` with `stop` set halts the engine, and it does nothing else (R24, R171). -/
theorem Effect.eq_of_halts {s t : State} {a : Action} (h : Effect s a t) (hs : s.halted = false)
    (ht : t.halted = true) : s.stop = true ∧ s.ds = .loopTop ∧ t = { s with halted := true } := by
  cases h with
  | halt _ hd hstop => exact ⟨hstop, hd, rfl⟩
  | _ => simp [hs] at ht

/-- Settles O37. -/
theorem stopIsSampledAtTheLoopTopOnly : Obligations.StopIsSampledAtTheLoopTopOnly := by
  constructor
  · intro s turns hturn hh hd
    rw [step_of_engineTurn hturn, engTurn_of_loopTop (by exact hh) (by exact hd)]
    rfl
  · intro s t h hh ht
    obtain ⟨a, turns, hturn, heff⟩ := step_effect h
    rw [hturn.tail_eq]
    exact heff.eq_of_halts hh ht

end Sys2Proof.Machine
end

section
/-! PROOFS. The turns of the link and of the configuration input, and the engine's turn where it has no step
(R17, R23, R24, R152). -/

namespace Sys2Proof.Machine

/-- Settles O44. -/
theorem linkMovesOneByteAtAnEndOfAStream : Obligations.LinkMovesOneByteAtAnEndOfAStream := by
  intro s rest
  constructor
  · intro b h
    rw [step_of_agenda h]
    rfl
  · intro b q h hq
    rw [step_of_agenda h]
    simp only [actionTurn, Turn.outcome, linkTakeStep, hq]

/-- Settles O46. -/
theorem faultInjectionIsAbsent : Obligations.FaultInjectionIsAbsent := by
  intro s rest
  constructor
  · intro b h
    rw [step_of_agenda h]
    rfl
  · intro h
    rw [step_of_agenda h]
    rfl

/-- Settles O51. -/
theorem engineWithoutAStepWaits : Obligations.EngineWithoutAStepWaits := by
  intro s turns hturn hwait
  rw [step_of_engineTurn hturn]
  rcases hwait with hh | ⟨hd, hq⟩
  · rw [engTurn_of_halted (by exact hh)]
    rfl
  · rw [engTurn_of_rxq_nil (by exact hd) (by exact hq)]
    rfl

end Sys2Proof.Machine
end

section
/-! PROOFS. The register files (R11 to R13) as lists of typed registers: reading is indexing, a write replaces
one entry, and a write answers exactly where index and type fit. -/

namespace Sys2Proof.Machine

/-- The registers of `T` in index order (R11). -/
def Telem.regs (t : Telem) : List FieldVal :=
  [.u8 t.id, .fmt t.tempFet, .fmt t.tempMotor, .fmt t.avgMotorCurrent, .fmt t.avgInputCurrent,
    .fmt t.avgId, .fmt t.avgIq, .fmt t.dutyCycleNow, .fmt t.rpm, .fmt t.voltageFiltered, .fmt t.ampHours,
    .fmt t.ampHoursCharged, .fmt t.wattHours, .fmt t.wattHoursCharged, .fmt t.tachometer,
    .fmt t.tachometerAbs, .u8 t.faultCode]

/-- The registers of `P` in index order (R12). -/
def Poll.regs (p : Poll) : List FieldVal :=
  [.u8 p.id, .u8 p.floatpkg, .u8 p.floatcmd, .u8 p.runState, .u8 p.fault, .fmt p.pitchOrDutyCycle,
    .fmt p.rpm, .fmt p.avgInputCurrent, .fmt p.inpVoltage, .u8 p.headlightBrightness,
    .u8 p.headlightIdleBrightness, .u8 p.statusbarBrightness]

theorem Telem.get_eq (t : Telem) (i : Nat) : t.get i = t.regs[i]? := by
  unfold Telem.get
  split
  case h_18 =>
    rw [List.getElem?_eq_none]
    simp only [imp_false] at *
    show 17 ≤ i
    omega
  all_goals rfl

theorem Poll.get_eq (p : Poll) (i : Nat) : p.get i = p.regs[i]? := by
  unfold Poll.get
  split
  case h_13 =>
    rw [List.getElem?_eq_none]
    simp only [imp_false] at *
    show 12 ≤ i
    omega
  all_goals rfl

/-- A write of `T` that answers replaces the entry of its index. -/
theorem Telem.set_eq_some {t t' : Telem} {i : Nat} {v : FieldVal} (h : t.set i v = some t') :
    i < 17 ∧ t'.regs = t.regs.set i v := by
  unfold Telem.set at h
  split at h <;> cases h <;> exact ⟨by omega, rfl⟩

/-- A write of `P` that answers replaces the entry of its index. -/
theorem Poll.set_eq_some {p p' : Poll} {i : Nat} {v : FieldVal} (h : p.set i v = some p') :
    i < 12 ∧ p'.regs = p.regs.set i v := by
  unfold Poll.set at h
  split at h <;> cases h <;> exact ⟨by omega, rfl⟩

/-- A write of `T` answers exactly where the value is of the register's type (R13). -/
theorem Telem.isSome_set (t : Telem) (i : Nat) (v : FieldVal) :
    (t.set i v).isSome = telemValueFits i v := by
  unfold Telem.set
  split
  case h_18 =>
    cases v with
    | u8 | fmt => simp [telemValueFits] at *; omega
  all_goals rfl

/-- A write of `P` answers exactly where the value is of the register's type (R13). -/
theorem Poll.isSome_set (p : Poll) (i : Nat) (v : FieldVal) :
    (p.set i v).isSome = pollValueFits i v := by
  unfold Poll.set
  split
  case h_13 =>
    cases v with
    | u8 | fmt => simp [pollValueFits] at *; omega
  all_goals rfl

/-- What every register of `T` reads after a write (R13). -/
theorem Telem.get_of_set {t t' : Telem} {i : Nat} {v : FieldVal} (h : t.set i v = some t') :
    t'.get i = some v ∧ ∀ j, j ≠ i → t'.get j = t.get j := by
  obtain ⟨hi, hregs⟩ := Telem.set_eq_some h
  simp only [Telem.get_eq, hregs]
  exact ⟨List.getElem?_set_self hi, fun j hj => List.getElem?_set_ne hj.symm⟩

/-- What every register of `P` reads after a write (R13). -/
theorem Poll.get_of_set {p p' : Poll} {i : Nat} {v : FieldVal} (h : p.set i v = some p') :
    p'.get i = some v ∧ ∀ j, j ≠ i → p'.get j = p.get j := by
  obtain ⟨hi, hregs⟩ := Poll.set_eq_some h
  simp only [Poll.get_eq, hregs]
  exact ⟨List.getElem?_set_self hi, fun j hj => List.getElem?_set_ne hj.symm⟩

/-- `SETT` completes with the written record where the value fits its register (R13). -/
theorem exec_sett_of_fits {i : Nat} {v : FieldVal} (s : State) (h : telemValueFits i v = true) :
    ∃ t, s.telem.set i v = some t ∧ exec (.sett i v) s = .next { s with telem := t } := by
  rw [← Telem.isSome_set s.telem] at h
  obtain ⟨t, ht⟩ := Option.isSome_iff_exists.1 h
  exact ⟨t, ht, by simp only [exec, execSett, ht]⟩

/-- `SETP` completes with the written record where the value fits its register (R13). -/
theorem exec_setp_of_fits {i : Nat} {v : FieldVal} (s : State) (h : pollValueFits i v = true) :
    ∃ p, s.poll.set i v = some p ∧ exec (.setp i v) s = .next { s with poll := p } := by
  rw [← Poll.isSome_set s.poll] at h
  obtain ⟨p, hp⟩ := Option.isSome_iff_exists.1 h
  exact ⟨p, hp, by simp only [exec, execSetp, hp]⟩

/-- Settles O42. -/
theorem settWritesOneTelemetryRegister : Obligations.SettWritesOneTelemetryRegister := by
  intro i v s
  constructor
  · intro h
    obtain ⟨t, ht, hexec⟩ := exec_sett_of_fits s h
    exact ⟨t, hexec, Telem.get_of_set ht⟩
  · intro h
    rw [← Telem.isSome_set s.telem, Option.isSome_eq_false_iff, Option.isNone_iff_eq_none] at h
    simp only [exec, execSett, h]

/-- Settles O43. -/
theorem setpWritesOnePollRegister : Obligations.SetpWritesOnePollRegister := by
  intro i v s
  constructor
  · intro h
    obtain ⟨p, hp, hexec⟩ := exec_setp_of_fits s h
    exact ⟨p, hexec, Poll.get_of_set hp⟩
  · intro h
    rw [← Poll.isSome_set s.poll, Option.isSome_eq_false_iff, Option.isNone_iff_eq_none] at h
    simp only [exec, execSetp, h]

/-- An encoder completes with a scale other than 0 (R108). -/
theorem encodeOnPort_completes (v : F64) (w : FxWidth) {scale : Half} (s : State) (h : scale ≠ 0) :
    ∃ t, encodeOnPort v w scale s = .next t := by
  rw [encodeOnPort, if_neg h]
  exact ⟨_, rfl⟩

/-- A payload of at most 255 bytes is framed (R149, R150). -/
theorem exists_reframe_eq_some {p : List Byte} (h : p.length ≤ 255) : ∃ f, reframe p = some f :=
  ⟨_, (frameWith_eq_some_iff _ _ _).2 ⟨h, rfl⟩⟩

/-- Settles O50: the scale, the length, the index and the type are all that an operation can refuse. -/
theorem wellFormedOperationsComplete : Obligations.WellFormedOperationsComplete := by
  intro i s hwf
  cases i with
  | getvalues | poll | chgstate | lcmdebug | unknown | crc16 | enctelem | encpoll | deframe | setstop =>
    exact ⟨_, rfl⟩
  | encfx8 v scale | encfx16 v scale | encfx32 v scale =>
    exact encodeOnPort_completes v _ s (bne_iff_ne.1 hwf)
  | reframe p =>
    obtain ⟨f, hf⟩ := exists_reframe_eq_some (of_decide_eq_true hwf)
    exact ⟨_, by simp only [exec, execReframe, hf]; rfl⟩
  | sett i v =>
    obtain ⟨t, -, h⟩ := exec_sett_of_fits s hwf
    exact ⟨_, h⟩
  | setp i v =>
    obtain ⟨p, -, h⟩ := exec_setp_of_fits s hwf
    exact ⟨_, h⟩

/-- `T` after reset, register by register (R27). -/
theorem reset_telem_get (i : Nat) :
    State.reset.telem.get i =
      if i = 0 ∨ i = 16 then some (.u8 0x00) else if i ≤ 15 then some (.fmt F64.zero) else none := by
  by_cases hi : i < 17
  · interval_cases i <;> rfl
  · rw [Telem.get_eq, List.getElem?_eq_none (by exact not_lt.1 hi), if_neg (by omega), if_neg (by omega)]

/-- `P` after reset, register by register (R27). -/
theorem reset_poll_get (i : Nat) :
    State.reset.poll.get i =
      if i ≤ 4 ∨ 9 ≤ i ∧ i ≤ 11 then some (.u8 0x00)
      else if i ≤ 8 then some (.fmt F64.zero) else none := by
  by_cases hi : i < 12
  · interval_cases i <;> rfl
  · rw [Poll.get_eq, List.getElem?_eq_none (by exact not_lt.1 hi), if_neg (by omega), if_neg (by omega)]

/-- The value of `+0.0` is 0 (R7). -/
theorem realOf_zero : realOf F64.zero = 0 := by
  have hnum : realNum F64.zero = 0 := by decide
  rw [realOf, hnum, Int.cast_zero, zero_div]

/-- The exclusive-or of the table's entries (R92). -/
theorem crcTab_foldl_xor : crcTab.foldl (· ^^^ ·) 0 = 0 := by decide +kernel

/-- The sum of the table's entries (R92). -/
theorem crcTab_sum : (crcTab.map BitVec.toNat).sum = 0x7FFF80 := by decide +kernel

/-- Settles O52. -/
theorem resetIsTheSpecifiedState : Obligations.ResetIsTheSpecifiedState :=
  ⟨reset_telem_get, reset_poll_get, rfl, rfl, rfl, rfl, rfl, rfl, rfl, rfl, rfl, rfl, rfl, rfl,
    realOf_zero, rfl, crcTab_foldl_xor, crcTab_sum⟩

end Sys2Proof.Machine
end

section
/-! PROOFS. What no step reads has no effect (R20, R26, 93 U5): the relation `State.SameButUnread` is kept by
every operation, by every turn and so by every step. -/

namespace Sys2Proof.Machine

theorem State.SameButUnread.refl (s : State) : s.SameButUnread s :=
  ⟨s.rxBuf, s.rxResult, s.txPayload, s.txFi, rfl, fun _ _ _ => rfl, fun _ => rfl, fun _ => ⟨rfl, rfl⟩⟩

theorem State.SameButUnread.setAgenda {a b : State} (h : a.SameButUnread b) (turns : List Action) :
    { a with agenda := turns }.SameButUnread { b with agenda := turns } := by
  obtain ⟨m, res, pay, fi, rfl, hread⟩ := h
  exact ⟨m, res, pay, fi, rfl, hread⟩

theorem State.SameButUnread.setRxq {a b : State} (h : a.SameButUnread b) (q : List Byte) :
    { a with rxq := q }.SameButUnread { b with rxq := q } := by
  obtain ⟨m, res, pay, fi, rfl, hread⟩ := h
  exact ⟨m, res, pay, fi, rfl, hread⟩

/-- A dropped frame leaves the sequencer where neither latch is read (R201). -/
theorem State.SameButUnread.dropFrame {a b : State} (h : a.SameButUnread b) (e : Event) :
    (dropFrame e a).SameButUnread (dropFrame e b) := by
  obtain ⟨m, res, pay, fi, rfl, hbuf, -, -⟩ := h
  exact ⟨m, res, pay, fi, rfl, hbuf, by simp, by simp⟩

/-- A reply that is handed over overwrites the reply latches on both sides (R172, R173). -/
theorem State.SameButUnread.handReply {a b : State} (h : a.SameButUnread b) (p : List Byte) (fi : Bool) :
    (handReply p fi a).SameButUnread (handReply p fi b) := by
  obtain ⟨m, res, _, _, rfl, hbuf, -, -⟩ := h
  exact ⟨m, res, p, fi, rfl, hbuf, by simp, fun _ => ⟨rfl, rfl⟩⟩

theorem State.SameButUnread.raiseAll {a b : State} (h : a.SameButUnread b) (es : List Event) :
    (raiseAll es a).SameButUnread (raiseAll es b) := by
  obtain ⟨m, res, pay, fi, rfl, hread⟩ := h
  rw [raiseAll_eq, raiseAll_eq]
  exact ⟨m, res, pay, fi, rfl, hread⟩

theorem State.SameButUnread.deliver {a b : State} (h : a.SameButUnread b) (r : PortOut) :
    (deliver r a).SameButUnread (deliver r b) := by
  obtain ⟨m, res, pay, fi, rfl, hread⟩ := h
  exact ⟨m, res, pay, fi, rfl, hread⟩

/-- No operation reads a latch (R14, R75): the two sides complete alike. -/
theorem exec_sameButUnread {i : Instr} {a b t : State} (h : a.SameButUnread b)
    (ht : exec i a = .next t) : ∃ t', exec i b = .next t' ∧ t.SameButUnread t' := by
  have htelem : b.telem = a.telem := by obtain ⟨_, _, _, _, rfl, -⟩ := h; rfl
  have hpoll : b.poll = a.poll := by obtain ⟨_, _, _, _, rfl, -⟩ := h; rfl
  cases i with
  | getvalues | poll =>
    cases ht
    refine ⟨_, rfl, ?_⟩
    simp only [htelem, hpoll]
    exact (h.raiseAll _).handReply _ _
  | chgstate | lcmdebug | unknown => cases ht; exact ⟨_, rfl, h.dropFrame _⟩
  | crc16 => cases ht; exact ⟨_, rfl, h.deliver _⟩
  | encfx8 | encfx16 | encfx32 =>
    simp only [exec, execEncfx8, execEncfx16, execEncfx32, encodeOnPort] at ht ⊢
    split at ht <;> cases ht
    rw [if_neg ‹_›]
    exact ⟨_, rfl, (h.raiseAll _).deliver _⟩
  | enctelem | encpoll =>
    cases ht
    refine ⟨_, rfl, ?_⟩
    simp only [htelem, hpoll]
    exact (h.raiseAll _).deliver _
  | deframe => cases ht; exact ⟨_, rfl, (h.raiseAll _).deliver _⟩
  | reframe p =>
    simp only [exec, execReframe] at ht ⊢
    split at ht <;> cases ht
    exact ⟨_, rfl, h.deliver _⟩
  | sett j v =>
    simp only [exec, execSett, htelem] at ht ⊢
    split at ht <;> cases ht
    obtain ⟨m, res, pay, fi, rfl, hread⟩ := h
    exact ⟨_, rfl, m, res, pay, fi, rfl, hread⟩
  | setp j v =>
    simp only [exec, execSetp, hpoll] at ht ⊢
    split at ht <;> cases ht
    obtain ⟨m, res, pay, fi, rfl, hread⟩ := h
    exact ⟨_, rfl, m, res, pay, fi, rfl, hread⟩
  | setstop =>
    cases ht
    obtain ⟨m, res, pay, fi, rfl, hread⟩ := h
    exact ⟨_, rfl, m, res, pay, fi, rfl, hread⟩

/-- A hand-over overwrites `rx_result` on both sides or leaves the sequencer where it is not read (R179). -/
theorem handOver_sameButUnread {a b : State} (h : a.SameButUnread b) (res : DeframeResult) :
    (handOver res a).SameButUnread (handOver res b) := by
  cases res with
  | ok p =>
    obtain ⟨m, _, pay, fi, rfl, hbuf, -, -⟩ := h
    exact ⟨m, p, pay, fi, rfl, hbuf, fun _ => rfl, by simp [handOver]⟩
  | malformed => exact h.dropFrame _
  | crcMismatch => exact h.dropFrame _
  | pending => exact h

/-- Two buffers that agree on the counted bytes agree on one more after the same store. -/
theorem lookup_insert_congr {m m' : Memory} {n : Nat} (x : Byte)
    (h : ∀ k < n, m'.lookup k = m.lookup k) :
    ∀ k < n + 1, (m'.insert n x).lookup k = (m.insert n x).lookup k := by
  intro k hk
  by_cases hkn : k = n
  · simp [hkn]
  · rw [Memory.lookup_insert_ne _ n k x hkn, Memory.lookup_insert_ne _ n k x hkn, h k (by omega)]

/-- A byte popped in `AwaitingFrame` reads of the buffer only the counted bytes (R145, R146). -/
theorem rxByteStep_sameButUnread {x : Byte} {a b t : State} (h : a.SameButUnread b)
    (hd : a.ds = .awaitingFrame) (ht : rxByteStep x a = .next t) :
    ∃ t', rxByteStep x b = .next t' ∧ t.SameButUnread t' := by
  obtain ⟨m, res, pay, fi, rfl, hbuf, -, -⟩ := h
  have hres : a.ds = .dispatching → res = a.rxResult := by simp [hd]
  have hpay : a.ds = .responding → pay = a.txPayload ∧ fi = a.txFi := by simp [hd]
  rcases rxByteStep_cases ht with
    ⟨hp, ⟨rfl, rfl⟩ | ⟨hx, rfl⟩⟩ | ⟨hp, rfl⟩ | ⟨hp, hc, ⟨hl, rfl⟩ | ⟨hl, body, hbody, rfl⟩⟩
  · refine ⟨_, rxByteStep_of_hunt _ hp, ?_⟩
    rw [if_pos rfl]
    exact ⟨m, res, pay, fi, rfl, by simp, hres, hpay⟩
  · refine ⟨_, rxByteStep_of_hunt _ hp, ?_⟩
    rw [if_neg hx]
    exact ⟨m, res, pay, fi, rfl, hbuf, hres, hpay⟩
  · exact ⟨_, rxByteStep_of_len _ hp, m, res, pay, fi, rfl, by simp, hres, hpay⟩
  · exact ⟨_, rxByteStep_of_body _ hp hc hl, m.insert a.rxCnt x, res, pay, fi, rfl,
      fun _ => lookup_insert_congr x (hbuf hp), hres, hpay⟩
  · have hslice := rxBufSlice_congr (a.rxBuf.insert a.rxCnt x) (m.insert a.rxCnt x) 0 (a.rxLen.toNat + 3)
      fun k _ hk => lookup_insert_congr x (hbuf hp) k (by omega)
    refine ⟨_, rxByteStep_of_last _ hp hc hl (hslice.trans hbody), handOver_sameButUnread ?_ _⟩
    exact ⟨m.insert a.rxCnt x, res, pay, fi, rfl, by simp, hres, hpay⟩

/-- `Respond` reads the reply latches, in `Responding` only (R177). -/
theorem respondStep_sameButUnread {a b t : State} (h : a.SameButUnread b) (hd : a.ds = .responding)
    (ht : respondStep Config.fiPresent a = .next t) :
    ∃ t', respondStep Config.fiPresent b = .next t' ∧ t.SameButUnread t' := by
  obtain ⟨m, res, pay, fi, rfl, hbuf, -, hpay⟩ := h
  obtain ⟨rfl, rfl⟩ := hpay hd
  obtain ⟨f, hf, rfl⟩ := respondStep_next ht
  exact ⟨_, respondStep_of_reframe hf, m, res, _, _, rfl, hbuf, by simp, by simp⟩

/-- Every engine turn that answers on one side answers on the other (R170). -/
theorem engTurn_sameButUnread {a b t : State} (h : a.SameButUnread b)
    (ht : (engTurn a).outcome = .next t) : ∃ t', (engTurn b).outcome = .next t' ∧ t.SameButUnread t' := by
  have hhalted : b.halted = a.halted := by obtain ⟨_, _, _, _, rfl, -⟩ := h; rfl
  have hds : b.ds = a.ds := by obtain ⟨_, _, _, _, rfl, -⟩ := h; rfl
  have hrxq : b.rxq = a.rxq := by obtain ⟨_, _, _, _, rfl, -⟩ := h; rfl
  rcases engTurn_cases ht with
    ⟨hh | ⟨hd, hq⟩, rfl⟩ | ⟨hh, hd, rfl⟩ | ⟨hh, hd, x, q, hq, ht⟩ | ⟨hh, hd, ht⟩ | ⟨hh, hd, ht⟩
  · rw [engTurn_of_halted (hhalted.trans hh)]
    exact ⟨b, rfl, h⟩
  · rw [engTurn_of_rxq_nil (hds.trans hd) (hrxq.trans hq)]
    exact ⟨b, rfl, h⟩
  · rw [engTurn_of_loopTop (hhalted.trans hh) (hds.trans hd)]
    refine ⟨_, rfl, ?_⟩
    obtain ⟨m, res, pay, fi, rfl, hbuf, hres, hpay⟩ := h
    unfold loopTopStep
    cases a.stop with
    | true => exact ⟨m, res, pay, fi, rfl, hbuf, hres, hpay⟩
    | false => exact ⟨m, res, pay, fi, rfl, hbuf, by simp, by simp⟩
  · rw [engTurn_of_rxq_cons (hhalted.trans hh) (hds.trans hd) (hrxq.trans hq)]
    exact rxByteStep_sameButUnread (h.setRxq q) hd ht
  · have hresult : b.rxResult = a.rxResult := by
      obtain ⟨_, _, _, _, rfl, -, hres, -⟩ := h
      exact hres hd
    rw [engTurn_of_dispatching (hhalted.trans hh) (hds.trans hd), hresult]
    exact exec_sameButUnread h ht
  · rw [engTurn_of_responding (hhalted.trans hh) (hds.trans hd)]
    exact respondStep_sameButUnread h hd ht

/-- A word on the local port is answered on both sides alike (R75). -/
theorem portTurn_sameButUnread {ag : PortAgent} {w : PortWord} {i : Instr} {a b t : State}
    (h : a.SameButUnread b) (hw : decodePort w = .ok i) (hi : Instr.portAgent i = some ag)
    (ht : exec i a = .next t) : ∃ t', (portTurn ag w b).outcome = .next t' ∧ t.SameButUnread t' := by
  simp only [portTurn, hw, if_pos hi]
  exact exec_sameButUnread h ht

theorem linkTakeStep_sameButUnread {a b : State} (h : a.SameButUnread b) :
    (linkTakeStep a).SameButUnread (linkTakeStep b) := by
  have hsame := h
  obtain ⟨m, res, pay, fi, rfl, hread⟩ := h
  unfold linkTakeStep
  cases hq : a.txq with
  | nil => simpa only [hq] using hsame
  | cons x q => simpa only [hq] using ⟨m, res, pay, fi, rfl, hread⟩

/-- A link failure overwrites everything the two sides can differ in (R204). -/
theorem linkFailStep_eq_of_sameButUnread {a b : State} (h : a.SameButUnread b) :
    linkFailStep b = linkFailStep a := by
  obtain ⟨m, res, pay, fi, rfl, -⟩ := h
  rfl

/-- Settles O59: every turn of every agent keeps the relation. -/
theorem unreadLatchesHaveNoEffect : Obligations.UnreadLatchesHaveNoEffect := by
  intro a b t h ht
  have hagenda : b.agenda = a.agenda := by obtain ⟨_, _, _, _, rfl, -⟩ := h; rfl
  rcases step_cases ht with ⟨ha, ht⟩ | ⟨x, turns, ha, ht⟩
  · have hb : step b = (engTurn b).outcome := by rw [step_eq_outcome, nextTurn, hagenda, ha]
    rw [hb]
    exact engTurn_sameButUnread h ht
  · have h' := h.setAgenda turns
    rw [step_of_agenda (hagenda.trans ha)]
    rcases ht with ⟨rfl, ht⟩ | ⟨w, i, rfl, hw, hi, ht⟩ | ⟨w, i, rfl, hw, hi, ht⟩ | ⟨x, rfl, rfl⟩ |
      ⟨rfl, rfl⟩ | ⟨rfl, rfl⟩ | ⟨x, rfl, rfl⟩
    · exact engTurn_sameButUnread h' ht
    · exact portTurn_sameButUnread h' hw hi ht
    · exact portTurn_sameButUnread h' hw hi ht
    · refine ⟨_, rfl, ?_⟩
      obtain ⟨m, res, pay, fi, rfl, hread⟩ := h
      exact ⟨m, res, pay, fi, rfl, hread⟩
    · exact ⟨_, rfl, linkTakeStep_sameButUnread h'⟩
    · exact ⟨_, rfl, linkFailStep_eq_of_sameButUnread h' ▸ .refl _⟩
    · exact ⟨_, rfl, h'⟩

end Sys2Proof.Machine
end

section
/-! PROOFS. The command table of the wire (R70, R71, R73): a payload's classification is read off its first bytes,
and the encoder gives the payload back. -/

namespace Sys2Proof.Machine

theorem exists_eq_cons_iff (p : List Byte) (a : Byte) :
    (∃ tail, p = a :: tail) ↔ 1 ≤ p.length ∧ p[0]? = some a := by
  cases p with
  | nil => simp
  | cons x tail => simp

theorem exists_eq_cons_three_iff (p : List Byte) (a b c : Byte) :
    (∃ tail, p = a :: b :: c :: tail) ↔
      3 ≤ p.length ∧ p[0]? = some a ∧ p[1]? = some b ∧ p[2]? = some c := by
  match p with
  | [] | [_] | [_, _] => simp
  | x :: y :: z :: tail => simp

theorem take_one_eq_iff (p : List Byte) (a : Byte) : p.take 1 = [a] ↔ ∃ tail, p = a :: tail := by
  cases p with
  | nil => simp
  | cons x tail => simp

theorem take_three_eq_iff (p : List Byte) (a b c : Byte) :
    p.take 3 = [a, b, c] ↔ ∃ tail, p = a :: b :: c :: tail := by
  match p with
  | [] | [_] | [_, _] => simp
  | x :: y :: z :: tail => simp

/-- The known payloads under prefix matching, row by row (R71). -/
theorem isKnownCommand_byPrefix_iff (p : List Byte) :
    isKnownCommand .byPrefix p = true ↔
      (∃ tail, p = 0x04 :: tail) ∨ (∃ tail, p = 0x24 :: 0x65 :: 0x18 :: tail) ∨
      (∃ tail, p = 0x24 :: 0x65 :: 0x1C :: tail) ∨ (∃ tail, p = 0x24 :: 0x65 :: 0x63 :: tail) := by
  simp only [isKnownCommand, appCommands, Bool.or_eq_true, beq_iff_eq, List.contains_iff_mem,
    List.mem_cons, List.not_mem_nil, or_false, take_one_eq_iff, take_three_eq_iff]

/-- The known payloads under exact matching (R71). -/
theorem isKnownCommand_exact_iff (p : List Byte) :
    isKnownCommand .exact p = true ↔
      p = [0x04] ∨ p = [0x24, 0x65, 0x18] ∨ p = [0x24, 0x65, 0x1C] ∨ p = [0x24, 0x65, 0x63] := by
  simp only [isKnownCommand, appCommands, Bool.or_eq_true, beq_iff_eq, List.contains_iff_mem,
    List.mem_cons, List.not_mem_nil, or_false]

/-- No byte of a payload is lost by its classification (R71, R73). -/
theorem encode_classifyWith (m : CmdMatch) (p : List Byte) : encode (classifyWith m p) = .wire p := by
  cases m with
  | byPrefix => simp only [classifyWith, classifyByPrefix]; split <;> rfl
  | exact => simp only [classifyWith, classifyExact]; split <;> rfl

/-- Exactly the payloads that are no known command are `UNKNOWN` (R71). -/
theorem classifyWith_eq_unknown_iff (m : CmdMatch) (p : List Byte) :
    classifyWith m p = .unknown p ↔ ¬ isKnownCommand m p = true := by
  cases m with
  | byPrefix =>
    rw [isKnownCommand_byPrefix_iff]
    simp only [classifyWith, classifyByPrefix]
    split
    case h_5 h1 h2 h3 h4 => simpa using ⟨h1, h2, h3, h4⟩
    all_goals simp
  | exact =>
    rw [isKnownCommand_exact_iff]
    simp only [classifyWith, classifyExact]
    split
    case h_5 h1 h2 h3 h4 => simpa using ⟨h1, h2, h3, h4⟩
    all_goals simp

/-- A payload a frame can carry is classified as a well-formed command (R71, R73). -/
theorem classifyWith_wellFormed (m : CmdMatch) {p : List Byte} (hp : p.length ≤ 255) :
    (classifyWith m p).wellFormedWith m = true := by
  by_cases hk : isKnownCommand m p = true
  · cases m with
    | byPrefix =>
      rcases (isKnownCommand_byPrefix_iff p).1 hk with
        ⟨tail, rfl⟩ | ⟨tail, rfl⟩ | ⟨tail, rfl⟩ | ⟨tail, rfl⟩ <;>
      exact decide_eq_true hp
    | exact =>
      rcases (isKnownCommand_exact_iff p).1 hk with rfl | rfl | rfl | rfl <;> rfl
  · rw [(classifyWith_eq_unknown_iff m p).2 hk]
    exact Bool.and_eq_true_iff.2 ⟨by simpa using hk, decide_eq_true hp⟩

/-- A well-formed operation of the wire is what its payload is classified as (R70, R71). -/
theorem classify_of_encode {i : Instr} {p : List Byte} (hwf : i.wellFormed = true)
    (he : encode i = .wire p) : classify p = i := by
  cases i with
  | getvalues | poll | chgstate | lcmdebug => cases he; rfl
  | unknown q =>
    cases he
    have hq : (!isKnownCommand Config.cmdMatch p) = true := (Bool.and_eq_true_iff.1 hwf).1
    exact (classifyWith_eq_unknown_iff _ p).2 (by simpa using hq)
  | crc16 | encfx8 | encfx16 | encfx32 | enctelem | encpoll | reframe | deframe | sett | setp | setstop =>
    cases he

/-- The port word of an operation decodes to it, whatever its operands (R75). -/
theorem decodePort_of_encode {i : Instr} {w : PortWord} (he : encode i = .port w) :
    decodePort w = .ok i := by
  cases i with
  | getvalues | poll | chgstate | lcmdebug | unknown => cases he
  | crc16 | encfx8 | encfx16 | encfx32 | enctelem | encpoll | reframe | deframe | sett | setp | setstop =>
    cases he; rfl

/-- Settles O1. -/
theorem decodeOfEncodeIsTheOperation : Obligations.DecodeOfEncodeIsTheOperation := by
  intro i hwf
  cases he : encode i with
  | wire p => exact congrArg Except.ok (classify_of_encode hwf he)
  | port w => exact decodePort_of_encode he

/-- Settles O2. -/
theorem everyPayloadIsOneCommand : Obligations.EveryPayloadIsOneCommand :=
  fun m p hp => ⟨classifyWith_wellFormed m hp, encode_classifyWith m p⟩

/-- A row of the command table under prefix matching, from the payload its operation encodes to. -/
theorem classifyByPrefix_eq_iff {i : Instr} {q : List Byte} (p : List Byte) (hq : classifyByPrefix q = i)
    (hi : encode i = .wire q) : classifyWith .byPrefix p = i ↔ p = q := by
  constructor
  · rintro rfl
    rw [encode_classifyWith] at hi
    exact Code.wire.inj hi
  · rintro rfl
    exact hq

/-- A row of three matched bytes, as R71 writes it: by the values at each index. -/
theorem exists_classifyByPrefix_three_iff {f : List Byte → Instr} {a b c : Byte} (p : List Byte)
    (hf : ∀ tail, classifyByPrefix (a :: b :: c :: tail) = f tail)
    (he : ∀ tail, encode (f tail) = .wire (a :: b :: c :: tail)) :
    (∃ tail, classifyWith .byPrefix p = f tail) ↔
      3 ≤ p.length ∧ p[0]? = some a ∧ p[1]? = some b ∧ p[2]? = some c := by
  rw [← exists_eq_cons_three_iff]
  exact exists_congr fun tail => classifyByPrefix_eq_iff p (hf tail) (he tail)

/-- The command table under exact matching (R71). -/
theorem classifyExact_eq_ite (p : List Byte) :
    classifyExact p =
      if p = [0x04] then .getvalues [] else if p = [0x24, 0x65, 0x18] then .poll []
      else if p = [0x24, 0x65, 0x1C] then .chgstate [] else if p = [0x24, 0x65, 0x63] then .lcmdebug []
      else .unknown p := by
  unfold classifyExact
  split
  case h_5 h1 h2 h3 h4 => exact ((if_neg h1).trans ((if_neg h2).trans ((if_neg h3).trans (if_neg h4)))).symm
  all_goals rfl

/-- No known first bytes, as R71 writes it: by the values at each index. -/
theorem not_isKnownCommand_byPrefix_iff (p : List Byte) :
    ¬ isKnownCommand .byPrefix p = true ↔
      ¬(p[0]? = some 0x04) ∧
      ¬(p[0]? = some 0x24 ∧ p[1]? = some 0x65 ∧
        (p[2]? = some 0x18 ∨ p[2]? = some 0x1C ∨ p[2]? = some 0x63)) := by
  have hlen {k : Nat} {x : Byte} (h : p[k]? = some x) : k + 1 ≤ p.length :=
    (List.getElem?_eq_some_iff.1 h).1
  simp only [isKnownCommand_byPrefix_iff, exists_eq_cons_iff, exists_eq_cons_three_iff,
    and_iff_right_of_imp hlen, and_iff_right_of_imp fun h : _ ∧ _ ∧ p[2]? = some _ => hlen h.2.2]
  tauto

/-- Settles O3. -/
theorem payloadMatchingFollowsTheCommandTable : Obligations.PayloadMatchingFollowsTheCommandTable := by
  intro p
  refine ⟨rfl, ?_, ?_, ?_, ?_, ?_, classifyExact_eq_ite p, fun s => ⟨rfl, rfl, rfl, rfl⟩⟩
  · rw [← exists_eq_cons_iff]
    exact exists_congr fun _ => classifyByPrefix_eq_iff p rfl rfl
  · exact exists_classifyByPrefix_three_iff p (fun _ => rfl) (fun _ => rfl)
  · exact exists_classifyByPrefix_three_iff p (fun _ => rfl) (fun _ => rfl)
  · exact exists_classifyByPrefix_three_iff p (fun _ => rfl) (fun _ => rfl)
  · rw [classifyWith_eq_unknown_iff, not_isKnownCommand_byPrefix_iff]

end Sys2Proof.Machine
end

section
/-! PROOFS. The clamp of the encoders (R65, R101, R106): what its bytes read back as and when it overflows. -/

namespace Sys2Proof.Machine

/-- The bytes of a clamped integer read back as the nearest code of the width (R106). -/
theorem sext_ube_fxClamp (q : Int) (w : FxWidth) :
    sext (8 * w.bytes) (ube (fxClamp q w).bytes) = max (fxLo w) (min (fxHi w) q) := by
  have hle := fxLo_le_fxHi w
  rcases fxClamp_cases q w with ⟨hq, h⟩ | ⟨hq, h⟩ | ⟨hlo, hhi, h⟩
  · rw [h, sext_ube_fxBytes _ w hle le_rfl, min_eq_left hq.le, max_eq_right hle]
  · rw [h, sext_ube_fxBytes _ w le_rfl hle, min_eq_right (hq.le.trans hle), max_eq_left hq.le]
  · rw [h, sext_ube_fxBytes q w hlo hhi, min_eq_right hhi, max_eq_right hlo]

/-- The overflow bit is set exactly outside the range of the width (R106). -/
theorem fxClamp_ovf_iff (q : Int) (w : FxWidth) :
    (fxClamp q w).ovf = true ↔ q < fxLo w ∨ fxHi w < q := by
  rcases fxClamp_cases q w with ⟨hq, h⟩ | ⟨hq, h⟩ | ⟨hlo, hhi, h⟩
  · simp [h, hq]
  · simp [h, hq]
  · simp [h, hlo.not_gt, hhi.not_gt]

/-- Settles O14. -/
theorem encoderClampsAndNeverWraps : Obligations.EncoderClampsAndNeverWraps := by
  intro v w s hv
  refine ⟨fx_bytes_length v w s, ?_⟩
  rw [fx_of_finite v w s hv]
  exact ⟨sext_ube_fxClamp _ w, fxClamp_ovf_iff _ w⟩

end Sys2Proof.Machine
end

section
/-! PROOFS. From a word to its step (R72, R75, R76, R180): what decodes is what runs, and a reserved select is
refused. -/

namespace Sys2Proof.Machine

/-- The reserved selects (R76). -/
theorem decodePort_of_reserved {w : PortWord} (h : w.op ∈ [0x0#4, 0xC#4, 0xD#4, 0xE#4, 0xF#4]) :
    decodePort w = .error (.badOp w.op) := by
  obtain ⟨op, bytes, v, scale, index, value⟩ := w
  simp only [List.mem_cons, List.not_mem_nil, or_false] at h
  rcases h with rfl | rfl | rfl | rfl | rfl <;> rfl

/-- A select that does not decode is refused, whoever presents it (R76). -/
theorem portTurn_of_badOp {w : PortWord} {op : BitVec 4} (a : PortAgent) (s : State)
    (h : decodePort w = .error (.badOp op)) : portTurn a w s = .done (.refused (.badOp op)) := by
  simp only [portTurn, h]

/-- An operation of the agent that presents its word is run (R75, R205). -/
theorem portTurn_of_agent {a : PortAgent} {w : PortWord} {i : Instr} (s : State)
    (hd : decodePort w = .ok i) (ha : Instr.portAgent i = some a) : portTurn a w s = .run i s := by
  simp only [portTurn, hd, if_pos ha]

/-- An agent of the port runs the operation its word decodes to (R75). -/
theorem step_of_portWord {s : State} {w : PortWord} {i : Instr} {rest : List Action}
    (hd : decodePort w = .ok i)
    (h : Instr.portAgent i = some .fn ∧ s.agenda = .fn w :: rest ∨
      Instr.portAgent i = some .col ∧ s.agenda = .col w :: rest) :
    step s = exec i { s with agenda := rest } := by
  rcases h with ⟨ha, hs⟩ | ⟨ha, hs⟩
  · rw [step_of_fn hs, portTurn_of_agent _ hd ha]; rfl
  · rw [step_of_col hs, portTurn_of_agent _ hd ha]; rfl

/-- A running engine runs the command its payload is classified as (R180). -/
theorem step_of_dispatching {s : State} {turns : List Action} (ht : s.EngineTurn turns)
    (hh : s.halted = false) (hd : s.ds = .dispatching) :
    step s = exec (classify s.rxResult) { s with agenda := turns } := by
  have hturn := engTurn_of_dispatching (s := { s with agenda := turns }) hh hd
  rw [step_of_engineTurn ht, hturn]
  rfl

/-- A word of a port operation is placed for the agent that may invoke it (log 20). -/
theorem step_placeCode_port {w : PortWord} {i : Instr} (s : State) (hd : decodePort w = .ok i) :
    step (placeCode (.port w) s) = exec i s := by
  have ha := portAgent_of_decodePort hd
  refine step_of_portWord (rest := s.agenda) hd ?_
  simp only [placeCode, hd]
  split at ha
  · exact .inl ⟨ha, by simp [ha]⟩
  · exact .inr ⟨ha, by simp [ha]⟩

/-- A placed payload is dispatched by the engine (log 20). -/
theorem step_placeCode_wire (p : List Byte) (s : State) :
    step (placeCode (.wire p) s) =
      exec (classify p) { s with rxResult := p, ds := .dispatching, halted := false } :=
  step_of_dispatching (turns := s.agenda) (.inr rfl) rfl rfl

/-- Settles O4. -/
theorem reservedSelectIsRefused : Obligations.ReservedSelectIsRefused := by
  intro s w rest hop h
  have hd := decodePort_of_reserved hop
  rcases h with h | h
  · rw [step_of_fn h, portTurn_of_badOp _ _ hd]; rfl
  · rw [step_of_col h, portTurn_of_badOp _ _ hd]; rfl

/-- Settles O5: each row of the two decoders, read at the written word. -/
theorem writtenWordsDecodeToTheirRow : Obligations.WrittenWordsDecodeToTheirRow :=
  ⟨rfl, rfl, rfl, rfl, rfl, fun _ => ⟨rfl, rfl, rfl, rfl, rfl, rfl, rfl, rfl, rfl, rfl, rfl⟩, rfl, rfl⟩

/-- Settles O48. -/
theorem stepRunsTheDecodedOperation : Obligations.StepRunsTheDecodedOperation := by
  refine ⟨?_, ?_, ?_⟩
  · intro s i hh hd hi hs
    have he : { s with agenda := [] } = s := by rw [← hs]
    rw [step_of_dispatching (.inl ⟨hs, rfl⟩) hh hd, Except.ok.inj hi, he]
  · intro s i rest hh hd hi hs
    rw [step_of_dispatching (.inr hs) hh hd, Except.ok.inj hi]
  · intro s i w rest hi h
    have ha := portAgent_of_decodePort hi
    refine step_of_portWord hi ?_
    rcases h with ⟨hop, hs⟩ | ⟨hop, hs⟩
    · exact .inl ⟨by rw [ha, if_pos hop], hs⟩
    · exact .inr ⟨by rw [ha, if_neg (by omega)], hs⟩

/-- A table word that decodes stands for a word that decodes (R72). -/
theorem decode_of_decodeTableWord {nbits w : Nat} {i : Instr} (h : decodeTableWord nbits w = some i) :
    decode (tableCode nbits w) = .ok i := by
  unfold decodeTableWord at h
  cases hd : decode (tableCode nbits w) with
  | error e => rw [hd] at h; cases h
  | ok j => rw [hd] at h; cases h; rfl

/-- Settles O49. -/
theorem placedTableWordIsWhatRuns : Obligations.PlacedTableWordIsWhatRuns := by
  intro s nbits w i h
  have hd := decode_of_decodeTableWord h
  constructor
  · intro c hc
    rw [hc] at hd
    rw [State.withFetchWord, hc, step_placeCode_port s hd]
  · intro p hp
    rw [hp] at hd
    rw [State.withFetchWord, hp, step_placeCode_wire, Except.ok.inj hd]

end Sys2Proof.Machine
end

section
/-! PROOFS. The CRC16 engine (R91 to R94): the register of the polynomial clocked once, and the update step as eight
such clocks. -/

namespace Sys2Proof.Machine

/-- One clock of the 16-bit register with polynomial 0x1021 (R91). `crcEntry_eq_clock` and `crcStep_eq_clock` tie it
to the table and to the update step. -/
def crcClock (c : Half) : Half := if c &&& 0x8000 = 0 then c <<< 1 else (c <<< 1) ^^^ 0x1021

/-- The top bit is what the feedback of a clock tests. -/
theorem and_topBit_eq_zero_iff (c : Half) : c &&& 0x8000 = 0 ↔ c.msb = false := by
  have h : c &&& 0x8000 = BitVec.twoPow 16 15 &&& c := BitVec.and_comm ..
  rw [h, BitVec.twoPow_and, BitVec.msb_eq_getLsbD_last]
  cases c.getLsbD 15 <;> decide

/-- A clock shifts, and feeds the polynomial back where the top bit leaves. -/
theorem crcClock_eq_xor (c : Half) : crcClock c = c <<< 1 ^^^ (if c.msb then 0x1021#16 else 0#16) := by
  simp only [crcClock, and_topBit_eq_zero_iff]
  cases c.msb <;> simp

/-- A clock is linear over exclusive or. -/
theorem crcClock_xor (c d : Half) : crcClock (c ^^^ d) = crcClock c ^^^ crcClock d := by
  have hfeed : (if c.msb ^^ d.msb then 0x1021#16 else 0#16) =
      (if c.msb then 0x1021#16 else 0#16) ^^^ (if d.msb then 0x1021#16 else 0#16) := by
    cases c.msb <;> cases d.msb <;> rfl
  simp only [crcClock_eq_xor, BitVec.shiftLeft_xor_distrib, BitVec.msb_xor, hfeed]
  ac_rfl

theorem crcClock_iterate_xor (n : Nat) (c d : Half) :
    crcClock^[n] (c ^^^ d) = crcClock^[n] c ^^^ crcClock^[n] d := by
  induction n generalizing c d with
  | zero => rfl
  | succ n ih => simp only [Function.iterate_succ_apply, crcClock_xor, ih]

/-- Bit 0 after a clock is the top bit before it, since the polynomial has its bit 0 set. -/
theorem getLsbD_zero_crcClock (c : Half) : (crcClock c).getLsbD 0 = c.msb := by
  rw [crcClock_eq_xor]
  cases c.msb <;> simp

/-- A clock loses nothing: the bit shifted out can be read back from bit 0. -/
theorem crcClock_injective : Function.Injective crcClock := by
  intro c d h
  have hmsb : c.msb = d.msb := by rw [← getLsbD_zero_crcClock, h, getLsbD_zero_crcClock]
  have hshift : c <<< 1 = d <<< 1 := by
    rw [crcClock_eq_xor, crcClock_eq_xor, hmsb] at h
    exact (BitVec.xor_left_inj _).1 h
  simp only [BitVec.msb_eq_decide, decide_eq_decide] at hmsb
  bv_omega

/-- While no bit reaches the top, clocking only shifts. -/
theorem crcClock_iterate_of_lt (n : Nat) (c : Half) (hn : n ≤ 16) (hc : c.toNat < 2 ^ (16 - n)) :
    crcClock^[n] c = c <<< n := by
  induction n with
  | zero => simp
  | succ n ih =>
    have hlt : c.toNat < 2 ^ (16 - n) := hc.trans_le (Nat.pow_le_pow_right (by omega) (by omega))
    have hmsb : (c <<< n).msb = false := by
      rw [BitVec.msb_shiftLeft, BitVec.getMsbD_eq_getLsbD, ← BitVec.testBit_toNat, Nat.testBit_lt_two_pow,
        Bool.and_false]
      exact hc.trans_le (Nat.pow_le_pow_right (by omega) (by omega))
    rw [Function.iterate_succ_apply', ih (by omega) hlt, crcClock_eq_xor, hmsb, BitVec.shiftLeft_add]
    simp

/-- The table as R91 generates it. -/
theorem crcTab_eq_map :
    crcTab = (List.range 256).map fun i => crcClock^[8] (BitVec.ofNat 16 i <<< 8) := by decide +kernel

/-- A table entry is its byte clocked eight times from the top of the register (R91). -/
theorem crcEntry_eq_clock (b : Byte) : crcEntry b = crcClock^[8] (b.setWidth 16 <<< 8) := by
  have hb : BitVec.ofNat 16 b.toNat = b.setWidth 16 := BitVec.ofNat_toNat 16 b
  rw [crcEntry, crcTab_eq_map]
  simp [hb, b.isLt]

/-- Eight clocks only shift the low byte of the register, which meets no feedback. -/
theorem crcClock_iterate_lowByte (c : Half) : crcClock^[8] ((c.setWidth 8).setWidth 16) = c <<< 8 := by
  rw [crcClock_iterate_of_lt 8 _ (by decide) (by simp; omega)]
  ext i hi
  have hlow : i - 8 < 8 := by omega
  have hlt : i - 8 < 16 := by omega
  simp [hlow, BitVec.getLsbD_eq_getElem hlt]

/-- A byte entered at the top of the register meets the high byte and leaves the low byte alone. -/
theorem xor_topByte_eq (c : Half) (b : Byte) :
    c ^^^ b.setWidth 16 <<< 8 =
      ((c >>> 8).setWidth 8 ^^^ b).setWidth 16 <<< 8 ^^^ (c.setWidth 8).setWidth 16 := by
  ext i hi
  by_cases h8 : i < 8
  · simp [h8, BitVec.getLsbD_eq_getElem hi]
  · have hlt : i - 8 < 8 := by omega
    have hadd : 8 + (i - 8) = i := by omega
    simp [h8, hlt, hadd, hi]

/-- The update step is the byte entered at the top of the register and eight clocks (R91, R93). -/
theorem crcStep_eq_clock (c : Half) (b : Byte) : crcStep c b = crcClock^[8] (c ^^^ b.setWidth 16 <<< 8) := by
  rw [crcStep, crcEntry_eq_clock, xor_topByte_eq, crcClock_iterate_xor, crcClock_iterate_lowByte]

/-- With the checksum fixed, different bytes give different checksums. -/
theorem crcStep_right_injective (c : Half) : Function.Injective (crcStep c) := by
  intro a b h
  rw [crcStep_eq_clock, crcStep_eq_clock] at h
  have hx := (BitVec.xor_right_inj c).1 (crcClock_injective.iterate 8 h)
  bv_omega

/-- With the byte fixed, different checksums stay different. -/
theorem crcStep_left_injective (b : Byte) : Function.Injective (crcStep · b) := by
  intro c d h
  simp only [crcStep_eq_clock] at h
  exact (BitVec.xor_left_inj _).1 (crcClock_injective.iterate 8 h)

/-- The same bytes folded into different checksums leave them different. -/
theorem foldl_crcStep_injective (s : List Byte) : Function.Injective (s.foldl crcStep) := by
  induction s with
  | nil => exact Function.injective_id
  | cons b s ih => exact fun c d h => crcStep_left_injective b (ih h)

/-- The entry of byte 0 is 0, so nothing but the shift acts on a checksum whose high byte is the byte taken. -/
theorem crcStep_of_highByte_eq {c : Half} {b : Byte} (h : (c >>> 8).setWidth 8 = b) : crcStep c b = c <<< 8 := by
  have h0 : crcEntry 0#8 = 0#16 := rfl
  rw [crcStep, h, BitVec.xor_self, h0, BitVec.zero_xor]

/-- From the empty checksum a byte gives its table entry. -/
theorem crcStep_zero_left (b : Byte) : crcStep 0 b = crcEntry b := by
  simp [crcStep]

/-- Settles O6. -/
theorem crcTableIsGeneratedByThePolynomial : Obligations.CrcTableIsGeneratedByThePolynomial :=
  ⟨by rw [crcTab_eq_map, List.length_map, List.length_range], crcEntry_eq_clock⟩

/-- Settles O7: the masks of the rule are the widths of the model. -/
theorem crcStepFollowsItsFormula : Obligations.CrcStepFollowsItsFormula := by
  intro c b
  have hidx : ((c >>> 8).setWidth 8 ^^^ b).toNat = ((c.toNat >>> 8) ^^^ b.toNat) &&& 0xFF := by
    rw [Nat.and_two_pow_sub_one_eq_mod _ 8, Nat.xor_mod_two_pow]
    simp [Nat.mod_eq_of_lt b.isLt]
  rw [← hidx]
  change (crcEntry _ ^^^ (c <<< 8)).toNat = ((crcEntry _).toNat ^^^ _) &&& _
  rw [Nat.and_two_pow_sub_one_eq_mod _ 16, BitVec.toNat_xor, BitVec.toNat_shiftLeft, Nat.xor_mod_two_pow,
    BitVec.toNat_mod_cancel]

/-- Settles O10. -/
theorem crcCheckValueIs31C3 : Obligations.CrcCheckValueIs31C3 := by
  unfold Obligations.CrcCheckValueIs31C3 crc16
  decide

/-- Settles O11: the corner cases are the first step from the empty checksum. -/
theorem crc16DeliversTheChecksum : Obligations.Crc16DeliversTheChecksum := by
  refine ⟨fun _ _ => rfl, rfl, crcStep_zero_left, fun bytes => ?_, rfl⟩
  have h0 : crcStep 0 0 = 0 := crcStep_zero_left 0
  rw [crc16, List.foldl_cons, h0, crc16]

end Sys2Proof.Machine
end

section
/-! PROOFS. What the CRC detects (R96, R97): since an update step loses nothing of the checksum or of the byte, any one
changed byte shows, and the residue form of the check carries this over to the CRC field. -/

namespace Sys2Proof.Machine

/-- A sequence with one byte replaced by another has another CRC. -/
theorem crc16_set_ne {s : List Byte} {i : Nat} (h : i < s.length) {b : Byte} (hb : b ≠ s[i]) :
    crc16 (s.set i b) ≠ crc16 s := by
  have hs : s = s.take i ++ s[i] :: s.drop (i + 1) := by simp
  rw [List.set_eq_take_append_cons_drop, if_pos h]
  conv_rhs => rw [hs]
  rw [crc16_append, crc16_append]
  exact fun heq => hb (crcStep_right_injective _ (foldl_crcStep_injective _ heq))

/-- Flipping one bit of a value gives another value. -/
theorem xor_bit_ne {w k : Nat} (x : BitVec w) (hk : k < w) : x ^^^ (1#w <<< k) ≠ x := by
  intro h
  have hbit := congrArg (·.getLsbD k) h
  simp [hk] at hbit

/-- A checksum followed by its own two bytes is used up. -/
theorem foldl_crcStep_self (hi lo : Byte) : [hi, lo].foldl crcStep (hi ++ lo) = 0 := by
  have hhi : ((hi ++ lo : Half) >>> 8).setWidth 8 = hi := by
    ext i h8
    simp [BitVec.getLsbD_append (x := hi) (y := lo), BitVec.getLsbD_eq_getElem h8]
  have hlo : (((hi ++ lo : Half) <<< 8) >>> 8).setWidth 8 = lo := by
    ext i h8
    have hlt : 8 + i < 16 := by omega
    simp [BitVec.getElem_append (x := hi) (y := lo), hlt, h8]
  rw [List.foldl_cons, List.foldl_cons, List.foldl_nil, crcStep_of_highByte_eq hhi,
    crcStep_of_highByte_eq hlo, ← BitVec.shiftLeft_add]
  simp

/-- The residue form of the check (R96), the CRC bytes named. -/
theorem crc16_append_two_eq_zero_iff (p : List Byte) (hi lo : Byte) :
    crc16 (p ++ [hi, lo]) = 0 ↔ crc16 p = hi ++ lo := by
  rw [crc16_append, ← foldl_crcStep_self hi lo]
  exact (foldl_crcStep_injective _).eq_iff

/-- A 16-bit value is its two bytes (R64). -/
theorem halves_append (c : Half) : (c >>> 8).setWidth 8 ++ c.setWidth 8 = c := by
  ext i hi
  rw [BitVec.getElem_append]
  split
  · simp [BitVec.getLsbD_eq_getElem hi]
  · have hadd : 8 + (i - 8) = i := by omega
    simp [hadd, BitVec.getLsbD_eq_getElem hi]

/-- A candidate frame that stands alone is judged and used up (R142). -/
theorem deframe_frame (payload : List Byte) (hi lo fin : Byte) (hp : payload.length ≤ 255) :
    deframe (0x02 :: BitVec.ofNat 8 payload.length :: payload ++ [hi, lo, fin]) =
      (checkBody payload.length (payload ++ [hi, lo, fin]), []) := by
  have hlen : (BitVec.ofNat 8 payload.length).toNat = payload.length := by rw [BitVec.toNat_ofNat]; omega
  have htake : (payload ++ [hi, lo, fin]).take (payload.length + 3) = payload ++ [hi, lo, fin] :=
    List.take_of_length_le (by simp)
  simp [deframe, Config.startMarker, hlen, htake]

/-- A frame whose payload and CRC region has a residue is a `CrcMismatch` (R96, R146). -/
theorem deframe_of_residue_ne_zero {n : Nat} {r : List Byte} (hn : n ≤ 255) (hr : r.length = n + 2)
    (hres : crc16 r ≠ 0) :
    ∃ crcRx crcCalc, deframe (0x02 :: BitVec.ofNat 8 n :: (r ++ [0x03])) = (.crcMismatch crcRx crcCalc, []) ∧
      crcRx ≠ crcCalc := by
  obtain ⟨q, hi, lo, rfl⟩ : ∃ q hi lo, r = q ++ [hi, lo] := by
    obtain ⟨hi, lo, h⟩ := List.length_eq_two.1 (show (r.drop n).length = 2 by simp [hr])
    exact ⟨r.take n, hi, lo, by rw [← h, List.take_append_drop]⟩
  obtain rfl : q.length = n := by simpa using hr
  have hne : crc16 q ≠ hi ++ lo := mt (crc16_append_two_eq_zero_iff q hi lo).2 hres
  refine ⟨hi ++ lo, crc16 q, ?_, hne.symm⟩
  have h := deframe_frame q hi lo 0x03 hn
  rw [checkBody_parts, if_neg (by decide), if_pos hne] at h
  simpa using h

/-- What stands between the length byte and the end marker of a good frame has residue 0 (R60, R96). -/
theorem exists_region_of_reframe {p f : List Byte} (h : reframe p = some f) :
    ∃ r : List Byte, p.length ≤ 255 ∧ r.length = p.length + 2 ∧ crc16 r = 0 ∧
      f = 0x02 :: BitVec.ofNat 8 p.length :: (r ++ [0x03]) := by
  obtain ⟨hp, rfl⟩ := (frameWith_eq_some_iff _ p f).1 h
  refine ⟨p ++ [(crc16 p >>> 8).setWidth 8, (crc16 p).setWidth 8], hp, by simp, ?_, by simp⟩
  rw [crc16_append_two_eq_zero_iff, halves_append]

/-- Settles O8. -/
theorem crcResidueIsZeroExactlyWhenTheCrcMatches : Obligations.CrcResidueIsZeroExactlyWhenTheCrcMatches := by
  intro p c
  rw [crc16_append_two_eq_zero_iff, halves_append]

/-- Settles O9: the payload and CRC region of a good frame has residue 0, and with one bit flipped another. -/
theorem crcDetectsEverySingleBitError : Obligations.CrcDetectsEverySingleBitError := by
  refine ⟨fun p i k h _ hk => crc16_set_ne h (xor_bit_ne _ hk), fun p k hk => xor_bit_ne _ hk, ?_⟩
  intro p f i k h hf hlo hhi hk
  obtain ⟨r, hp, hlen, hres, rfl⟩ := exists_region_of_reframe hf
  obtain ⟨j, rfl⟩ : ∃ j, i = j + 2 := ⟨i - 2, by omega⟩
  have hj : j < r.length := by omega
  have hset := hres ▸ crc16_set_ne hj (xor_bit_ne r[j] hk)
  have hmis := deframe_of_residue_ne_zero hp (by rw [List.length_set, hlen]) hset
  simpa only [List.set_cons_succ, List.getElem_cons_succ, List.set_append_left _ _ hj,
    List.getElem_append_left hj] using hmis

end Sys2Proof.Machine
end

section
/-! PROOFS. `round_to_int` (R102, R109): the integer nearest to a fraction, a tie to the even one, is only one, so
that a rounding is known by what it is nearest to. -/

namespace Sys2Proof.Machine

/-- `q` is within one half of `n / d`, and is even where it is exactly one half away (R102). -/
def IsNearestEven (n : Int) (d : Nat) (q : Int) : Prop :=
  2 * |q * d - n| ≤ d ∧ (2 * |q * d - n| = d → q % 2 = 0)

/-- Rounding down happens below one half and at a tie with an even floor, rounding up otherwise (R102). -/
theorem roundToInt_cases (n : Int) (d : Nat) :
    (roundToInt n d = n / d ∧ (2 * (n % d) < d ∨ 2 * (n % d) = d ∧ n / d % 2 = 0)) ∨
    (roundToInt n d = n / d + 1 ∧ (d < 2 * (n % d) ∨ 2 * (n % d) = d ∧ n / d % 2 = 1)) := by
  unfold roundToInt
  dsimp only
  split_ifs with hup hdown heven
  · exact .inr ⟨rfl, .inl hup⟩
  · exact .inl ⟨rfl, .inl hdown⟩
  · exact .inl ⟨rfl, .inr ⟨by omega, heven⟩⟩
  · exact .inr ⟨rfl, .inr ⟨by omega, by omega⟩⟩

/-- The distance is the remainder, or what the remainder lacks to `d`. -/
theorem isNearestEven_roundToInt (n : Int) {d : Nat} (hd : 0 < d) : IsNearestEven n d (roundToInt n d) := by
  have hr0 : 0 ≤ n % d := Int.emod_nonneg n (by omega)
  have hrd : n % d < d := Int.emod_lt_of_pos n (by omega)
  have hdiv : n / d * d + n % d = n := Int.ediv_mul_add_emod n d
  unfold IsNearestEven
  rcases roundToInt_cases n d with ⟨hq, hr⟩ | ⟨hq, hr⟩
  · have hdist : |n / d * d - n| = n % d := by
      rw [show n / d * d - n = -(n % d) by omega, abs_neg, abs_of_nonneg hr0]
    rw [hq, hdist]
    omega
  · have hdist : |(n / d + 1) * d - n| = d - n % d := by
      rw [show (n / d + 1) * d - n = d - n % d by rw [add_one_mul]; omega, abs_of_nonneg (by omega)]
    rw [hq, hdist]
    omega

/-- Two of them, one above the other, would be one apart and both half a unit away, so that both were even. -/
theorem IsNearestEven.le {n : Int} {d : Nat} (hd : 0 < d) {a b : Int} (ha : IsNearestEven n d a)
    (hb : IsNearestEven n d b) : b ≤ a := by
  by_contra! hlt
  obtain ⟨ha, hatie⟩ := ha
  obtain ⟨hb, hbtie⟩ := hb
  have hgap : (b * d - n) - (a * d - n) = (b - a) * d := by ring
  have hale := neg_le_abs (a * d - n)
  have hble := le_abs_self (b * d - n)
  have hone : b - a = 1 := by
    have : (b - a) * d ≤ 1 * d := by omega
    have := le_of_mul_le_mul_right this (by omega)
    omega
  rw [hone, one_mul] at hgap
  have haeven := hatie (by omega)
  have hbeven := hbtie (by omega)
  omega

theorem IsNearestEven.unique {n : Int} {d : Nat} (hd : 0 < d) {a b : Int} (ha : IsNearestEven n d a)
    (hb : IsNearestEven n d b) : a = b :=
  le_antisymm (hb.le hd ha) (ha.le hd hb)

theorem IsNearestEven.neg {n : Int} {d : Nat} {q : Int} (h : IsNearestEven n d q) : IsNearestEven (-n) d (-q) := by
  have hdist : |-q * d - -n| = |q * d - n| := by rw [← abs_neg]; congr 1; ring
  unfold IsNearestEven at h ⊢
  rw [hdist, Int.neg_emod_two]
  exact h

/-- Settles O12. -/
theorem roundingIsNearestTiesToEven : Obligations.RoundingIsNearestTiesToEven :=
  fun n _ hd => isNearestEven_roundToInt n hd

/-- Settles O13: both sides are nearest to `-n / d`. -/
theorem roundingIsSymmetricAboutZero : Obligations.RoundingIsSymmetricAboutZero :=
  fun n _ hd => (isNearestEven_roundToInt (-n) hd).unique hd (isNearestEven_roundToInt n hd).neg

end Sys2Proof.Machine
end

section
/-! PROOFS. The round trip of the encoders (R110, R111): the rounding's half unit, divided by the scale. -/

namespace Sys2Proof.Machine

theorem realDen_pos : 0 < realDen := by decide

/-- The rounded integer is within one half of the fraction, as rationals (R102). -/
theorem abs_roundToInt_sub_div_le (n : Int) {d : Nat} (hd : 0 < d) : |(roundToInt n d : ℚ) - n / d| ≤ 1 / 2 := by
  have hd' : (0 : ℚ) < d := Nat.cast_pos.2 hd
  have hdist : 2 * |(roundToInt n d : ℚ) * d - n| ≤ d := by exact_mod_cast (isNearestEven_roundToInt n hd).1
  have hscale : |(roundToInt n d : ℚ) - n / d| * d = |(roundToInt n d : ℚ) * d - n| := by
    rw [← abs_of_pos hd', ← abs_mul, abs_of_pos hd', sub_mul, div_mul_cancel₀ _ hd'.ne']
  refine le_of_mul_le_mul_right ?_ hd'
  linarith

/-- The rounded product is within one half of the real product (R101). -/
theorem abs_roundToInt_sub_realOf_mul_le (v : F64) (s : Nat) :
    |(roundToInt (realNum v * s) realDen : ℚ) - realOf v * s| ≤ 1 / 2 := by
  have h := abs_roundToInt_sub_div_le (realNum v * s) realDen_pos
  rwa [Int.cast_mul, Int.cast_natCast, ← div_mul_eq_mul_div] at h

/-- What an encoder outputs for a finite datum without overflow decodes to the rounded product over the scale
(R106, R110). -/
theorem decodeFixed_fx {v : F64} {w : FxWidth} {s : Nat} (hv : isFinite v = true) (ho : (fx v w s).ovf = false) :
    decodeFixed (fx v w s).bytes s = (roundToInt (realNum v * s) realDen : ℚ) / s := by
  rw [decodeFixed, fx_bytes_length]
  rw [fx_of_finite v w s hv] at ho ⊢
  rcases fxClamp_cases (roundToInt (realNum v * s) realDen) w with ⟨-, h⟩ | ⟨-, h⟩ | ⟨hlo, hhi, h⟩
  · simp [h] at ho
  · simp [h] at ho
  · rw [h, sext_ube_fxBytes _ w hlo hhi]

/-- Settles O16: a rounding moves less than a whole unit, so it cannot bring a product back into the range. -/
theorem fixedPointRoundTripIsWithinHalfAStep : Obligations.FixedPointRoundTripIsWithinHalfAStep := by
  intro v w s hv hs
  have hs' : (0 : ℚ) < s := Nat.cast_pos.2 hs
  have hhalf := abs_roundToInt_sub_realOf_mul_le v s
  constructor
  · intro ho
    have hstep : decodeFixed (fx v w s).bytes s - realOf v =
        ((roundToInt (realNum v * s) realDen : ℚ) - realOf v * s) / s := by
      rw [decodeFixed_fx hv ho, sub_div, mul_div_cancel_right₀ _ hs'.ne']
    rw [hstep, abs_div, abs_of_pos hs', ← div_div]
    exact div_le_div_of_nonneg_right hhalf hs'.le
  · intro hout
    obtain ⟨hge, hle⟩ := abs_le.1 hhalf
    rw [fx_of_finite v w s hv, fxClamp_ovf_iff]
    refine hout.imp (fun hlow => ?_) (fun hhigh => ?_)
    · have : (roundToInt (realNum v * s) realDen : ℚ) < fxLo w := by linarith
      exact_mod_cast this
    · have : (fxHi w : ℚ) < roundToInt (realNum v * s) realDen := by linarith
      exact_mod_cast this

end Sys2Proof.Machine
end

section
/-! PROOFS. Special data (R107): what `fx` answers for an infinity, a NaN and a datum of value 0. -/

namespace Sys2Proof.Machine

/-- The integer 0 is within every range and its bytes are zero. -/
theorem fxClamp_zero (w : FxWidth) : fxClamp 0 w = { bytes := List.replicate w.bytes 0x00, ovf := false } := by
  cases w <;> decide

theorem fxBytes_zero (w : FxWidth) : fxBytes 0 w = List.replicate w.bytes 0x00 := by cases w <;> decide

/-- An infinity encodes the bound on its side and overflows (R107). -/
theorem fx_of_isInf {v : F64} (w : FxWidth) (s : Nat) (h : isInf v = true) :
    fx v w s = { bytes := fxBytes (if fmtNeg v then fxLo w else fxHi w) w, ovf := true } := by
  have hnan : isNaN v = false := by
    obtain ⟨-, hfrac⟩ : fmtExp v = 2047 ∧ fmtFrac v = 0 := by simpa [isInf] using h
    simp [isNaN, hfrac]
  simp [fx, hnan, h]

/-- A NaN encodes `FX_NAN_CODE = 0` and overflows (R107; log 4). -/
theorem fx_of_isNaN {v : F64} (w : FxWidth) (s : Nat) (h : isNaN v = true) :
    fx v w s = { bytes := List.replicate w.bytes 0x00, ovf := true } := by
  rw [fx, if_pos h, Config.fxNanCode, fxBytes_zero]

theorem roundToInt_zero (d : Nat) : roundToInt 0 d = 0 := by simp [roundToInt]

/-- A datum of value 0, of either sign, encodes 0 and does not overflow (R107). -/
theorem fx_of_realNum_eq_zero {v : F64} (w : FxWidth) (s : Nat) (hfin : isFinite v = true) (h : realNum v = 0) :
    fx v w s = { bytes := List.replicate w.bytes 0x00, ovf := false } := by
  rw [fx_of_finite v w s hfin, h, zero_mul, roundToInt_zero, fxClamp_zero]

/-- Zeros and subnormals have a real value (R107). -/
theorem isFinite_of_exponent_zero {v : F64} (h : v.extractLsb' 52 11 = 0) : isFinite v = true := by
  simp [isFinite, fmtExp, h]

/-- Settles O15. -/
theorem specialDataAreEncodedAsDecided : Obligations.SpecialDataAreEncodedAsDecided :=
  ⟨fun w s => ⟨fx_of_isInf w s (by decide), fx_of_isInf w s (by decide),
      fx_of_realNum_eq_zero w s (by decide) (by decide)⟩,
    fun _ w s hnan => fx_of_isNaN w s hnan, fun _ hexp => isFinite_of_exponent_zero hexp⟩

end Sys2Proof.Machine
end

section
/-! PROOFS. The encoders on the local port (R103 to R105, R108): `fx` delivered, with its event and flag. -/

namespace Sys2Proof.Machine

theorem encodeOnPort_zero (v : F64) (w : FxWidth) (s : State) : encodeOnPort v w 0 s = .refused .badScale := rfl

/-- An encoder with a scale other than 0 raises its overflow, if any, delivers, and changes nothing else (R103 to
R105, R191). -/
theorem encodeOnPort_of_ne_zero (v : F64) (w : FxWidth) {scale : Half} (s : State) (h : scale ≠ 0) :
    encodeOnPort v w scale s = .next (
      if (fx v w scale.toNat).ovf then
        { s with
          ev := s.ev ++ [.fixedPointOverflow (.operands v w scale.toNat)]
          status := s.status ||| 4#4
          portOut := .encoded (fx v w scale.toNat).bytes true }
      else { s with portOut := .encoded (fx v w scale.toNat).bytes false }) := by
  rw [encodeOnPort, if_neg h]
  generalize fx v w scale.toNat = o
  obtain ⟨bytes, ovf⟩ := o
  cases ovf <;> rfl

/-- Settles O17: the three encoders are the one of the port at their widths. -/
theorem encodersDeliverBytesAndOverflow : Obligations.EncodersDeliverBytesAndOverflow := by
  intro v scale s
  refine ⟨fun hscale after hafter => ?_, encodeOnPort_zero v .w1 s, encodeOnPort_zero v .w2 s,
    encodeOnPort_zero v .w4 s⟩
  have hrun (w : FxWidth) : encodeOnPort v w scale s = .next (after w) := by
    rw [hafter, encodeOnPort_of_ne_zero v w s hscale]
  exact ⟨hrun .w1, hrun .w2, hrun .w4⟩

end Sys2Proof.Machine
end

section
/-! PROOFS. The layout of the records (R44, R120, R121, R124, R127): an encoding cut where its schema is cut, so that
every field stands behind the widths of the fields before it. -/

namespace Sys2Proof.Machine

/-- The number of bytes a field takes, whatever its value (R120). -/
def Field.width {R : Type} (f : Field R) : Nat :=
  match f.enc with
  | .ident _ => 1
  | .fixed _ w _ => w.bytes

theorem encodeField_bytes_length {R : Type} (f : Field R) (r : R) : (encodeField f r).bytes.length = f.width := by
  rw [encodeField_length]
  rfl

/-- The number of bytes the fields of a schema take together; of the fields before a field, its offset (R44). -/
def schemaWidth {R : Type} (fs : List (Field R)) : Nat := (fs.map Field.width).sum

section
variable {R : Type} (fs : List (Field R)) (r : R)

theorem encodeRecord_cons_bytes (f : Field R) :
    (encodeRecord (f :: fs) r).bytes = (encodeField f r).bytes ++ (encodeRecord fs r).bytes := (rfl)

theorem encodeRecord_append_bytes (gs : List (Field R)) :
    (encodeRecord (fs ++ gs) r).bytes = (encodeRecord fs r).bytes ++ (encodeRecord gs r).bytes := by
  induction fs with
  | nil => rfl
  | cons f fs ih => rw [List.cons_append, encodeRecord_cons_bytes, encodeRecord_cons_bytes, ih, List.append_assoc]

theorem encodeRecord_bytes_length : (encodeRecord fs r).bytes.length = schemaWidth fs := by
  induction fs with
  | nil => rfl
  | cons f fs ih =>
    rw [encodeRecord_cons_bytes, List.length_append, encodeField_bytes_length, ih, schemaWidth, schemaWidth,
      List.map_cons, List.sum_cons]

/-- An encoding is that of the fields before a field and that of the fields from it on. -/
theorem encodeRecord_bytes_split (k : Nat) :
    (encodeRecord fs r).bytes = (encodeRecord (fs.take k) r).bytes ++ (encodeRecord (fs.drop k) r).bytes := by
  rw [← encodeRecord_append_bytes, List.take_append_drop]

/-- The bytes before a field are the encoding of the fields before it. -/
theorem encodeRecord_take_bytes (k : Nat) :
    (encodeRecord fs r).bytes.take (schemaWidth (fs.take k)) = (encodeRecord (fs.take k) r).bytes := by
  rw [encodeRecord_bytes_split fs r k]
  exact List.take_left' (encodeRecord_bytes_length _ r)

/-- The bytes from a field on are the encoding of that field and those after it. -/
theorem encodeRecord_drop_bytes (k : Nat) :
    (encodeRecord fs r).bytes.drop (schemaWidth (fs.take k)) = (encodeRecord (fs.drop k) r).bytes := by
  rw [encodeRecord_bytes_split fs r k]
  exact List.drop_left' (encodeRecord_bytes_length _ r)

/-- A field's encoding stands behind the fields before it (R44, R120). -/
theorem encodeRecord_field_bytes (k : Nat) (hk : k < fs.length) :
    ((encodeRecord fs r).bytes.drop (schemaWidth (fs.take k))).take fs[k].width = (encodeField fs[k] r).bytes := by
  rw [encodeRecord_drop_bytes, List.drop_eq_getElem_cons hk, encodeRecord_cons_bytes]
  exact List.take_left' (encodeField_bytes_length fs[k] r)

end

/-- The fault code is no field of the schema (R121, 90 C3). -/
theorem encodeTelem_faultCode (t : Telem) (c : Byte) :
    (encodeTelem { t with faultCode := c }).bytes = (encodeTelem t).bytes := by
  rw [encodeTelem_bytes, encodeTelem_bytes]

/-- Settles O18. -/
theorem recordLengthsAreFixed : Obligations.RecordLengthsAreFixed := ⟨encodeTelem_length, encodePoll_length⟩

/-- Settles O19: row by row, the field of the schema at that index. -/
theorem telemetryFieldsStandAtTheirOffsets : Obligations.TelemetryFieldsStandAtTheirOffsets := by
  intro t b hb
  have field (k : Nat) (hk : k < telemSchema.length) :
      (b.drop (schemaWidth (telemSchema.take k))).take telemSchema[k].width = (encodeField telemSchema[k] t).bytes :=
    hb ▸ encodeRecord_field_bytes telemSchema t k hk
  have last : b.drop (schemaWidth (telemSchema.take 16)) = (encodeRecord (telemSchema.drop 16) t).bytes :=
    hb ▸ encodeRecord_drop_bytes telemSchema t 16
  exact ⟨field 0 (by decide), field 1 (by decide), field 2 (by decide), field 3 (by decide), field 4 (by decide),
    field 5 (by decide), field 6 (by decide), field 7 (by decide), field 8 (by decide), field 9 (by decide),
    field 10 (by decide), field 11 (by decide), field 12 (by decide), field 13 (by decide), field 14 (by decide),
    field 15 (by decide), last, fun c => hb ▸ encodeTelem_faultCode t c⟩

/-- Settles O20: the bytes before the first floating field, the four floating fields, and the bytes after them. -/
theorem pollFieldsStandAtTheirOffsets : Obligations.PollFieldsStandAtTheirOffsets := by
  intro p b hb
  have field (k : Nat) (hk : k < pollSchema.length) :
      (b.drop (schemaWidth (pollSchema.take k))).take pollSchema[k].width = (encodeField pollSchema[k] p).bytes :=
    hb ▸ encodeRecord_field_bytes pollSchema p k hk
  have first : b.take (schemaWidth (pollSchema.take 5)) = (encodeRecord (pollSchema.take 5) p).bytes :=
    hb ▸ encodeRecord_take_bytes pollSchema p 5
  have last : b.drop (schemaWidth (pollSchema.take 9)) = (encodeRecord (pollSchema.drop 9) p).bytes :=
    hb ▸ encodeRecord_drop_bytes pollSchema p 9
  exact ⟨first, field 5 (by decide), field 6 (by decide), field 7 (by decide), field 8 (by decide), last⟩

end Sys2Proof.Machine
end

section
/-! PROOFS. The overflows of a record (R126): the floating fields filtered by their overflow bits, and the events and
the flag that `ENCTELEM` and `ENCPOLL` raise for them (R122, R125). -/

namespace Sys2Proof.Machine

/-- The floating fields of a schema in field order: each one's register index and encoder output (R120). -/
def floatingOutputs {R : Type} (fs : List (Field R)) (r : R) : List (Nat × FxOut) :=
  fs.filterMap fun f =>
    match f.enc with
    | .ident _ => none
    | .fixed get w scale => some (f.index, fx (get r) w scale)

/-- The listed registers are those of the floating fields that overflow, in field order (R126). -/
theorem encodeRecord_overflowed {R : Type} (fs : List (Field R)) (r : R) :
    (encodeRecord fs r).overflowed = ((floatingOutputs fs r).filter fun x => x.2.ovf).map Prod.fst := by
  induction fs with
  | nil => rfl
  | cons f fs ih =>
    obtain ⟨i, enc⟩ := f
    cases enc with
    | ident get => exact ih
    | fixed get w scale =>
      have hcons : floatingOutputs (⟨i, .fixed get w scale⟩ :: fs) r =
          (i, fx (get r) w scale) :: floatingOutputs fs r := rfl
      rw [encodeRecord_fixed_overflowed, hcons, List.filter_cons, ih]
      cases (fx (get r) w scale).ovf <;> rfl

/-- Settles O21. -/
theorem overflowsAreListedInFieldOrder : Obligations.OverflowsAreListedInFieldOrder :=
  ⟨fun t => ⟨encodeRecord_overflowed telemSchema t, encodeRecord_ovf_iff telemSchema t⟩,
    fun p => ⟨encodeRecord_overflowed pollSchema p, encodeRecord_ovf_iff pollSchema p⟩⟩

/-- Raising the overflows of a record appends one event for each to the trace and sets `FXOVF` if the record's `ovf`
is set (R126, R190). -/
theorem raiseAll_overflowEvents {R : Type} (name : RecordName) (fs : List (Field R)) (r : R) (s : State) :
    raiseAll (overflowEvents name (encodeRecord fs r)) s =
      { s with
        ev := s.ev ++ (encodeRecord fs r).overflowed.map fun i => .fixedPointOverflow (.field name i)
        status := if (encodeRecord fs r).ovf then s.status ||| 4#4 else s.status } := by
  rw [raiseAll_eq, foldl_setFlag_overflowEvents]
  simp only [encodeRecord_ovf_iff, ite_not]
  rfl

/-- `ENCTELEM` raises the overflows of the record and delivers its encoding (R122). -/
theorem exec_enctelem (s : State) :
    exec .enctelem s = .next (deliver (.encoded (encodeTelem s.telem).bytes (encodeTelem s.telem).ovf)
      (raiseAll (overflowEvents .telem (encodeTelem s.telem)) s)) := rfl

/-- `ENCPOLL` raises the overflows of the record and delivers its encoding (R125). -/
theorem exec_encpoll (s : State) :
    exec .encpoll s = .next (deliver (.encoded (encodePoll s.poll).bytes (encodePoll s.poll).ovf)
      (raiseAll (overflowEvents .poll (encodePoll s.poll)) s)) := rfl

/-- Settles O22. -/
theorem recordEncodersDeliverTheSnapshot : Obligations.RecordEncodersDeliverTheSnapshot := by
  intro s
  constructor
  · rw [exec_enctelem, encodeTelem, raiseAll_overflowEvents]
    rfl
  · rw [exec_encpoll, encodePoll, raiseAll_overflowEvents]
    rfl

end Sys2Proof.Machine
end

section
/-! PROOFS. `REFRAME` and `DEFRAME` as functions (R142, R147 to R149, R153): one equation per shape of the input, and
every input has one of these shapes. -/

namespace Sys2Proof.Machine

/-- Framing answers the frame for a payload of at most 255 bytes (R149). -/
theorem frameWith_of_length_le (c : Half) {p : List Byte} (hp : p.length ≤ 255) :
    frameWith c p =
      some (0x02 :: BitVec.ofNat 8 p.length :: p ++ [(c >>> 8).setWidth 8, c.setWidth 8, 0x03]) :=
  (frameWith_eq_some_iff c p _).2 ⟨hp, rfl⟩

/-- A longer payload is not framed (R150). -/
theorem frameWith_of_lt_length (c : Half) {p : List Byte} (hp : 255 < p.length) : frameWith c p = none :=
  if_neg (by exact hp.not_ge)

/-- Settles O24. -/
theorem reframeDeliversTheFrame : Obligations.ReframeDeliversTheFrame := by
  refine ⟨fun p s hp => ?_, fun p s hp => ?_, by decide, by decide⟩
  · simp only [exec, execReframe, reframe, frameWith_of_length_le _ hp]
    rfl
  · simp only [exec, execReframe, reframe, frameWith_of_lt_length _ hp]

/-- Settles O27: the events of the result are raised and the result is delivered. -/
theorem deframeDeliversItsResult : Obligations.DeframeDeliversItsResult := by
  intro bytes s
  simp only [exec, execDeframe]
  cases (deframe bytes).1 with
  | ok | malformed | crcMismatch | pending => rfl

/-- Bytes before the first start marker are discarded (R142). -/
theorem deframe_append_of_notMem {junk : List Byte} (bytes : List Byte) (h : 0x02#8 ∉ junk) :
    deframe (junk ++ bytes) = deframe bytes := by
  have hjunk : ∀ b ∈ junk, decide (b ≠ Config.startMarker) = true :=
    fun b hb => decide_eq_true fun (heq : b = 0x02#8) => h (heq ▸ hb)
  rw [deframe, deframe, List.dropWhile_append_of_pos hjunk]

/-- A complete candidate frame is judged, and what follows it is the remainder (R142, R148). -/
theorem deframe_of_frame {junk : List Byte} {len : Byte} {body : List Byte} (rest : List Byte)
    (hj : 0x02#8 ∉ junk) (hb : body.length = len.toNat + 3) :
    deframe (junk ++ 0x02 :: len :: (body ++ rest)) = (checkBody len.toNat body, rest) := by
  rw [deframe_append_of_notMem _ hj]
  simp [deframe, Config.startMarker, ← hb]

/-- Without a start marker there is no frame (R142). -/
theorem deframe_of_notMem {junk : List Byte} (hj : 0x02#8 ∉ junk) : deframe junk = (.pending, []) := by
  rw [← List.append_nil junk, deframe_append_of_notMem [] hj]
  rfl

/-- A start marker alone is no frame (R142). -/
theorem deframe_of_marker {junk : List Byte} (hj : 0x02#8 ∉ junk) :
    deframe (junk ++ [0x02]) = (.pending, []) := by
  rw [deframe_append_of_notMem _ hj]
  rfl

/-- An input that ends before the end marker's place is no frame (R142). -/
theorem deframe_of_short {junk : List Byte} {len : Byte} {part : List Byte} (hj : 0x02#8 ∉ junk)
    (hp : part.length < len.toNat + 3) : deframe (junk ++ 0x02 :: len :: part) = (.pending, []) := by
  rw [deframe_append_of_notMem _ hj]
  simp [deframe, Config.startMarker, hp]

/-- Every input is `Pending` with nothing left over, or a complete candidate frame stands behind the bytes to discard
(R142). -/
theorem deframe_cases (bytes : List Byte) :
    deframe bytes = (.pending, []) ∨
    ∃ (junk : List Byte) (len : Byte) (body rest : List Byte),
      bytes = junk ++ 0x02 :: len :: (body ++ rest) ∧ 0x02#8 ∉ junk ∧ body.length = len.toNat + 3 := by
  by_cases hmem : 0x02#8 ∈ bytes
  · obtain ⟨junk, tail, rfl, hj⟩ := List.eq_append_cons_of_mem hmem
    match tail with
    | [] => exact .inl (deframe_of_marker hj)
    | len :: part =>
      by_cases hp : part.length < len.toNat + 3
      · exact .inl (deframe_of_short hj hp)
      · refine .inr ⟨junk, len, part.take (len.toNat + 3), part.drop (len.toNat + 3), ?_, hj, ?_⟩
        · rw [List.take_append_drop]; rfl
        · rw [List.length_take]; omega
  · exact .inl (deframe_of_notMem hmem)

/-- Settles O25. -/
theorem deframeFollowsTheSixSteps : Obligations.DeframeFollowsTheSixSteps := by
  refine ⟨fun junk len payload hi lo fin rest hj hp => ?_, fun _ => deframe_of_notMem,
    fun _ => deframe_of_marker, fun _ _ _ => deframe_of_short⟩
  have hframe := deframe_of_frame (len := len) (body := payload ++ [hi, lo, fin]) rest hj (by simp [hp])
  rw [← hp, checkBody_parts] at hframe
  simpa using hframe

/-- Settles O26. -/
theorem deframeConsumesExactlyOneFrame : Obligations.DeframeConsumesExactlyOneFrame := by
  intro bytes rest res h hres
  rcases deframe_cases bytes with hpend | ⟨junk, len, body, tail, rfl, hj, hb⟩
  · exact absurd (congrArg Prod.fst (h.symm.trans hpend)) hres
  · obtain rfl : rest = tail := congrArg Prod.snd (h.symm.trans (deframe_of_frame tail hj hb))
    exact ⟨junk, len, body, by simp, hj, hb⟩

/-- Settles O23: the frame's CRC field is the CRC of its payload. -/
theorem deframeOfReframeIsThePayload : Obligations.DeframeOfReframeIsThePayload := by
  intro p hp
  refine ⟨_, frameWith_of_length_le _ hp, ?_⟩
  rw [deframe_frame p _ _ _ hp, checkBody_parts, halves_append]
  simp

end Sys2Proof.Machine
end

section
/-! PROOFS. The variant of `Respond` with fault injection (R151, R177; log 6), which no step runs. -/

namespace Sys2Proof.Machine

/-- `Respond` on a reply that fits a frame, with the CRC field it takes (R177). -/
theorem respondStep_of_length_le (fiPresent : Bool) {s : State} (hp : s.txPayload.length ≤ 255) :
    respondStep fiPresent s =
      .next { s with
        txq := s.txq ++ (0x02 :: BitVec.ofNat 8 s.txPayload.length :: s.txPayload ++
          [(respondCrc fiPresent s >>> 8).setWidth 8, (respondCrc fiPresent s).setWidth 8, 0x03])
        ds := .loopTop
        draws := if respondInjects fiPresent s then s.draws + 1 else s.draws } := by
  simp only [respondStep, frameWith_of_length_le _ hp]

/-- Where the draws are not taken, `Respond` is the same with and without fault injection (R23, R151). -/
theorem respondStep_eq_of_not_injects {s : State} (h : respondInjects true s = false) :
    respondStep true s = respondStep false s := by
  have habsent : respondInjects false s = false := rfl
  simp only [respondStep, respondCrc, h, habsent]

/-- Settles O36. -/
theorem faultInjectionReplacesOnlyTheCrc : Obligations.FaultInjectionReplacesOnlyTheCrc := by
  intro s hp
  constructor
  · rintro hen hfi c rfl
    have hinj : respondInjects true s = true := by simp [respondInjects, fiEnabled, hen, hfi]
    rw [respondStep_of_length_le true hp, respondCrc, hinj, Bool.true_and, if_pos rfl]
  · intro hoff
    apply respondStep_eq_of_not_injects
    rcases hoff with h | h <;> simp [respondInjects, fiEnabled, h]

end Sys2Proof.Machine
end

section
/-! PROOFS. `RxByte` (R143 to R147, R179): what the engine does with the byte at the head of `RXQ`, and that the last
byte of a frame is judged on exactly the bytes stored before it. -/

namespace Sys2Proof.Machine

/-- Whenever the turn is the engine's and a byte awaits it, the step is `RxByte` on that byte (R143, R170). -/
theorem step_of_rxq_cons {s : State} {turns : List Action} {b : Byte} {q : List Byte} (ht : s.EngineTurn turns)
    (hh : s.halted = false) (hd : s.ds = .awaitingFrame) (hq : s.rxq = b :: q) :
    step s = rxByteStep b { s with agenda := turns, rxq := q } := by
  have hturn := engTurn_of_rxq_cons (s := { s with agenda := turns }) hh hd hq
  rw [step_of_engineTurn ht, hturn]
  rfl

/-- The bytes counted after a store are the ones counted before and the stored one (R145). -/
theorem lookup_insert_eq_append {m : Memory} {bytes : List Byte} (b : Byte)
    (h : ∀ k < bytes.length, m.lookup k = bytes[k]?) :
    ∀ k < (bytes ++ [b]).length, (m.insert bytes.length b).lookup k = (bytes ++ [b])[k]? := by
  intro k hk
  rw [List.length_append, List.length_singleton] at hk
  by_cases hkn : k = bytes.length
  · subst hkn; simp
  · have hlt : k < bytes.length := by omega
    rw [Memory.lookup_insert_ne m _ k b hkn, h k hlt, List.getElem?_append_left hlt]

/-- The last byte of a frame: the body that is judged is the bytes stored before it and the byte itself (R146). -/
theorem rxByteStep_completes_frame {s : State} {part : List Byte} (b : Byte) (hp : s.rxPhase = .body)
    (hc : s.rxCnt = part.length) (hl : part.length = s.rxLen.toNat + 2)
    (hm : ∀ k < part.length, s.rxBuf.lookup k = part[k]?) :
    rxByteStep b s =
      .next (handOver (checkBody s.rxLen.toNat (part ++ [b]))
        { s with rxBuf := s.rxBuf.insert s.rxCnt b, rxCnt := s.rxCnt + 1, rxPhase := .hunt }) := by
  have hbyte := s.rxLen.isLt
  have hlen : (part ++ [b]).length = s.rxLen.toNat + 3 := by simp [hl]
  have hslice := rxBufSlice_eq_ok (s.rxBuf.insert part.length b) (part ++ [b]) 0
    (by rw [hlen, Config.rxBufSize]; omega) (by simpa using lookup_insert_eq_append b hm)
  rw [hlen, ← hc] at hslice
  exact rxByteStep_of_last b hp (by omega) (by omega) hslice

/-- Settles O28. -/
theorem rxByteHuntsThenTakesTheLength : Obligations.RxByteHuntsThenTakesTheLength := by
  intro s turns b rest ht hh hd hq
  rw [step_of_rxq_cons ht hh hd hq]
  exact ⟨fun hp => rxByteStep_of_hunt b hp, fun hp => rxByteStep_of_len b hp⟩

/-- Settles O29. -/
theorem rxByteStoresTheBodyByte : Obligations.RxByteStoresTheBodyByte := by
  intro s turns b rest ht hh hd hp hq hl
  have hc : s.rxCnt < 258 := by have := s.rxLen.isLt; omega
  refine ⟨s.rxBuf.insert s.rxCnt b, ?_, rxBufRead_insert_self _ _ b hc,
    fun a ha => rxBufRead_insert_ne _ _ a b ha⟩
  rw [step_of_rxq_cons ht hh hd hq]
  exact rxByteStep_of_body b hp hc hl.ne

/-- Settles O30. -/
theorem lastByteCompletesTheFrame : Obligations.LastByteCompletesTheFrame := by
  intro s turns payload hi lo fin rest ht hh hd hp hlen hcnt hq hm
  have hc : s.rxCnt < 258 := by have := s.rxLen.isLt; omega
  have hpart : (payload ++ [hi, lo]).length = s.rxLen.toNat + 2 := by simp [hlen]
  refine ⟨s.rxBuf.insert s.rxCnt fin, fun a ha => rxBufRead_insert_ne _ _ a fin ha,
    rxBufRead_insert_self _ _ fin hc, ?_⟩
  rintro t rfl
  have hstep := rxByteStep_completes_frame (s := { s with agenda := turns, rxq := rest })
    (part := payload ++ [hi, lo]) fin hp (hcnt.trans hpart.symm) hpart
    (by rw [hpart, ← hcnt]; exact hm)
  have hverdict := checkBody_parts payload hi lo fin
  have hbody : payload ++ [hi, lo] ++ [fin] = payload ++ [hi, lo, fin] := by simp
  rw [hlen, ← hbody] at hverdict
  rw [step_of_rxq_cons ht hh hd hq, hstep, hverdict]
  split_ifs <;> rfl

end Sys2Proof.Machine
end

section
/-! PROOFS. No step faults (R146, R150, R170): an operation never does, and an engine turn answers from every state
that meets the invariant. -/

namespace Sys2Proof.Machine

/-- No operation stops with a fault. -/
theorem exec_ne_fault (i : Instr) (s : State) (f : Fault) : exec i s ≠ .fault f := by
  cases i with
  | getvalues | poll | chgstate | lcmdebug | unknown | crc16 | enctelem | encpoll | deframe | setstop => nofun
  | encfx8 | encfx16 | encfx32 =>
    simp only [exec, execEncfx8, execEncfx16, execEncfx32, encodeOnPort]
    split <;> nofun
  | reframe p =>
    simp only [exec, execReframe]
    split <;> nofun
  | sett j v =>
    simp only [exec, execSett]
    split <;> nofun
  | setp j v =>
    simp only [exec, execSetp]
    split <;> nofun

/-- No word on the local port ends in a fault. -/
theorem portTurn_ne_fault (a : PortAgent) (w : PortWord) (s : State) (f : Fault) :
    (portTurn a w s).outcome ≠ .fault f := by
  unfold portTurn
  split
  · nofun
  · split
    · exact exec_ne_fault _ _ f
    · nofun

/-- Only the engine's turns can end in a fault. -/
theorem actionTurn_ne_fault {a : Action} (ha : a ≠ .eng) (s : State) (f : Fault) :
    (actionTurn a s).outcome ≠ .fault f := by
  cases a with
  | eng => exact absurd rfl ha
  | col w => exact portTurn_ne_fault .col w s f
  | fn w => exact portTurn_ne_fault .fn w s f
  | linkPut | linkTake | linkFail | cfgInput | fiGarbage => nofun

/-- A byte is answered in every phase: its address exists, and at the end of a frame every byte of it has been
written (R40, R145, R146). -/
theorem exists_rxByteStep_eq_next {s : State} (b : Byte) (h : s.FrameInv) :
    ∃ t, rxByteStep b s = .next t := by
  cases hp : s.rxPhase with
  | hunt => exact ⟨_, rxByteStep_of_hunt b hp⟩
  | len => exact ⟨_, rxByteStep_of_len b hp⟩
  | body =>
    have hbyte := s.rxLen.isLt
    have hshort := h.countShort hp
    have hc : s.rxCnt < 258 := by omega
    by_cases hl : s.rxCnt + 1 = s.rxLen.toNat + 3
    · obtain ⟨body, hbody⟩ := rxBufSlice_isOk (s.rxBuf.insert s.rxCnt b) 0 (s.rxLen.toNat + 3)
        (by rw [Config.rxBufSize]; omega)
        fun k _ hk => lookup_insert_isSome b (h.countWritten hp) k (by omega)
      exact ⟨_, rxByteStep_of_last b hp hc hl hbody⟩
    · exact ⟨_, rxByteStep_of_body b hp hc hl⟩

/-- Dispatch answers: the payload a frame carries is a well-formed command (R73, R180). -/
theorem exists_exec_classify_eq_next {p : List Byte} (s : State) (hp : p.length ≤ 255) :
    ∃ t, exec (classify p) s = .next t :=
  wellFormedOperationsComplete _ s (classifyWith_wellFormed _ hp)

/-- A turn of the engine answers, from a state with the invariant (R170). -/
theorem exists_engTurn_eq_next {s : State} (h : s.ShapeInv) : ∃ t, (engTurn s).outcome = .next t := by
  cases hh : s.halted with
  | true => rw [engTurn_of_halted hh]; exact ⟨_, rfl⟩
  | false =>
    cases hd : s.ds with
    | loopTop => rw [engTurn_of_loopTop hh hd]; exact ⟨_, rfl⟩
    | awaitingFrame =>
      cases hq : s.rxq with
      | nil => rw [engTurn_of_rxq_nil hd hq]; exact ⟨_, rfl⟩
      | cons b q =>
        rw [engTurn_of_rxq_cons hh hd hq]
        exact exists_rxByteStep_eq_next b (h.toFrameInv.of_same rfl rfl rfl rfl id)
    | dispatching =>
      rw [engTurn_of_dispatching hh hd]
      exact exists_exec_classify_eq_next s (h.resultBound hd)
    | responding =>
      have hlen : s.txPayload.length ≤ 255 := by rcases h.replyShape hd with ⟨h, -⟩ | ⟨h, -⟩ <;> omega
      rw [engTurn_of_responding hh hd]
      exact ⟨_, respondStep_of_length_le _ hlen⟩

/-- A step whose turn is the engine's answers, from a state with the invariant. -/
theorem exists_step_eq_next_of_engineTurn {s : State} {turns : List Action} (h : s.Inv)
    (ht : s.EngineTurn turns) : ∃ t, step s = .next t := by
  rw [step_of_engineTurn ht]
  exact exists_engTurn_eq_next ((s.inv_iff.1 h).1.setAgenda turns)

/-- Settles O55: an engine turn answers, and no other turn can fault. -/
theorem invariantStatesNeverFault : Obligations.InvariantStatesNeverFault := by
  intro s h
  constructor
  · intro f hf
    cases ha : s.agenda with
    | nil =>
      obtain ⟨t, ht⟩ := exists_step_eq_next_of_engineTurn h (.inl ⟨ha, rfl⟩)
      simp [ht] at hf
    | cons a rest =>
      by_cases hturn : a = .eng
      · obtain ⟨t, ht⟩ := exists_step_eq_next_of_engineTurn h (.inr (hturn ▸ ha))
        simp [ht] at hf
      · rw [step_of_agenda ha] at hf
        exact actionTurn_ne_fault hturn _ f hf
  · rintro (ha | ⟨rest, ha⟩)
    · exact exists_step_eq_next_of_engineTurn h (.inl ⟨ha, rfl⟩)
    · exact exists_step_eq_next_of_engineTurn h (.inr ha)

end Sys2Proof.Machine
end

section
/-! PROOFS. The engine reading a byte stream (R154): the deframer's registers hold what has been read since it was
idle, every byte either extends that or completes the frame, and the frame it completes is the one `DEFRAME` finds. -/

namespace Sys2Proof.Machine

/-- What the deframer's registers hold after the bytes read since it was idle, no frame being complete (R143 to
R145). -/
inductive Scan : List Byte → RxPhase → Byte → Nat → Memory → Prop where
  /-- no start marker yet -/
  | hunt {junk : List Byte} {l : Byte} {c : Nat} {m : Memory} (hj : 0x02#8 ∉ junk) : Scan junk .hunt l c m
  /-- the first start marker has just been read -/
  | len {junk : List Byte} {l : Byte} {c : Nat} {m : Memory} (hj : 0x02#8 ∉ junk) :
    Scan (junk ++ [0x02]) .len l c m
  /-- the bytes after the length byte are counted and stored -/
  | body {junk : List Byte} {l : Byte} {part : List Byte} {m : Memory} (hj : 0x02#8 ∉ junk)
    (hl : part.length < l.toNat + 3) (hm : ∀ k < part.length, m.lookup k = part[k]?) :
    Scan (junk ++ 0x02 :: l :: part) .body l part.length m

/-- While no frame is complete `DEFRAME` answers `Pending` (R142). -/
theorem Scan.deframe_eq {seen : List Byte} {p : RxPhase} {l : Byte} {c : Nat} {m : Memory}
    (h : Scan seen p l c m) : deframe seen = (.pending, []) := by
  cases h with
  | hunt hj => exact deframe_of_notMem hj
  | len hj => exact deframe_of_marker hj
  | body hj hl => exact deframe_of_short hj hl

/-- From the idle engine `s`, the bytes `seen` have been read and `q` is left: nothing but the deframer's registers and
`RXQ` has changed. -/
def HasRead (s : State) (seen q : List Byte) (t : State) : Prop :=
  ∃ p l c m, Scan seen p l c m ∧ t = { s with rxq := q, rxPhase := p, rxLen := l, rxCnt := c, rxBuf := m }

/-- From the idle engine `s`, the result `res` has been handed over and `rest` is left. -/
def HandedOver (s : State) (res : DeframeResult) (rest : List Byte) (t : State) : Prop :=
  ∃ l c m, t = handOver res { s with rxq := rest, rxPhase := .hunt, rxLen := l, rxCnt := c, rxBuf := m }

/-- An idle deframer has read nothing. -/
theorem HasRead.of_hunt {s : State} (hp : s.rxPhase = .hunt) : HasRead s [] s.rxq s :=
  ⟨.hunt, s.rxLen, s.rxCnt, s.rxBuf, .hunt (by simp), by rw [← hp]⟩

/-- One byte (R154): it extends what has been read, or it completes the frame `DEFRAME` finds and the result is handed
over. -/
theorem HasRead.step_cases {s t : State} {seen q : List Byte} {b : Byte} (hs : s.agenda = []) (hh : s.halted = false)
    (hd : s.ds = .awaitingFrame) (h : HasRead s seen (b :: q) t) :
    ∃ t', step t = .next t' ∧
      (HasRead s (seen ++ [b]) q t' ∨
        ∃ res, deframe (seen ++ b :: q) = (res, q) ∧ res ≠ .pending ∧ HandedOver s res q t') := by
  obtain ⟨p, l, c, m, hscan, ht⟩ := h
  have hstep : step t = rxByteStep b { t with rxq := q } := by
    subst ht
    exact step_of_rxq_cons (turns := s.agenda) (.inl ⟨hs, hs⟩) hh hd rfl
  rw [hstep]
  subst ht
  cases hscan with
  | hunt hj =>
    refine ⟨_, rxByteStep_of_hunt b rfl, .inl ?_⟩
    split_ifs with hb
    · subst hb
      exact ⟨_, _, _, _, .len hj, rfl⟩
    · exact ⟨_, _, _, _, .hunt (by simpa [hj] using Ne.symm hb), rfl⟩
  | len hj =>
    refine ⟨_, rxByteStep_of_len b rfl, .inl ⟨.body, b, 0, m, ?_, rfl⟩⟩
    simpa using Scan.body (l := b) (part := []) (m := m) hj (by simp) (by simp)
  | @body _ _ part _ hj hl hm =>
    have hbyte := l.isLt
    by_cases hlast : part.length = l.toNat + 2
    · refine ⟨_, rxByteStep_completes_frame b rfl rfl hlast hm,
        .inr ⟨_, ?_, checkBody_ne_pending _ _, _, _, _, rfl⟩⟩
      simpa using deframe_of_frame (body := part ++ [b]) q hj (by simp [hlast])
    · have hc : part.length < 258 := by omega
      have hmore : part.length + 1 ≠ l.toNat + 3 := by omega
      refine ⟨_, rxByteStep_of_body b rfl hc hmore,
        .inl ⟨.body, l, part.length + 1, m.insert part.length b, ?_, rfl⟩⟩
      simpa using Scan.body (part := part ++ [b]) hj (by simp; omega) (lookup_insert_eq_append b hm)

/-- A run takes its first step first. -/
theorem run_succ_of_step {s t : State} (k : Nat) (h : step s = .next t) :
    Host.Core.run core (k + 1) s = Host.Core.run core k t := by
  have hcore : core.step s = .next t := h
  simp only [Host.Core.run, hcore]

/-- The engine reading what is left of a stream, byte after byte: it stops after the `n` bytes `DEFRAME` consumes of
it, with nothing handed over before (R154). -/
theorem HasRead.run {s t : State} {seen q : List Byte} (hs : s.agenda = []) (hh : s.halted = false)
    (hd : s.ds = .awaitingFrame) (h : HasRead s seen q t) :
    ∃ n, n + (deframe (seen ++ q)).2.length = q.length ∧
      (∀ k < n, ∃ t', Host.Core.run core k t = .next t' ∧ HasRead s (seen ++ q.take k) (q.drop k) t') ∧
      ∃ t', Host.Core.run core n t = .next t' ∧
        (deframe (seen ++ q) = (.pending, []) ∧ HasRead s (seen ++ q) [] t' ∨
          (deframe (seen ++ q)).1 ≠ .pending ∧
            HandedOver s (deframe (seen ++ q)).1 (deframe (seen ++ q)).2 t') := by
  induction q generalizing seen t with
  | nil =>
    have hpend : deframe seen = (.pending, []) := by
      obtain ⟨p, l, c, m, hscan, -⟩ := h
      exact hscan.deframe_eq
    refine ⟨0, by simp [hpend], by simp, t, rfl, .inl ?_⟩
    simpa using ⟨hpend, h⟩
  | cons b q ih =>
    have hzero : ∃ t', Host.Core.run core 0 t = .next t' ∧
        HasRead s (seen ++ (b :: q).take 0) ((b :: q).drop 0) t' := ⟨t, rfl, by simpa using h⟩
    obtain ⟨t₁, hstep, hread | ⟨res, hres, hne, hover⟩⟩ := h.step_cases hs hh hd
    · obtain ⟨n, hn, hbefore, t', hrun, hend⟩ := ih hread
      simp only [List.append_assoc, List.singleton_append] at hn hbefore hend
      refine ⟨n + 1, by simp only [List.length_cons]; omega, fun k hk => ?_, t', ?_, hend⟩
      · cases k with
        | zero => exact hzero
        | succ k => rw [run_succ_of_step k hstep]; exact hbefore k (by omega)
      · rw [run_succ_of_step n hstep, hrun]
    · rw [hres]
      refine ⟨1, by simp [Nat.add_comm], fun k hk => ?_, t₁, run_succ_of_step 0 hstep, .inr ⟨hne, hover⟩⟩
      obtain rfl : k = 0 := by omega
      exact hzero

/-- Settles O31: the run of the engine from the idle deframer, and what its last state holds. -/
theorem engineStepsAgreeWithDeframe : Obligations.EngineStepsAgreeWithDeframe := by
  rintro s bytes rest res hs hh hd hp rfl hres
  obtain ⟨n, hn, hbefore, t, hrun, hend⟩ := (HasRead.of_hunt hp).run hs hh hd
  simp only [List.nil_append, hres] at hn hbefore hend
  obtain rfl : n = s.rxq.length - rest.length := by omega
  constructor
  · intro k hk
    obtain ⟨t', hrun', p, l, c, m, -, rfl⟩ := hbefore k hk
    exact ⟨_, hrun', rfl, hd, rfl, rfl⟩
  · refine ⟨t, hrun, ?_⟩
    rcases hend with ⟨hpend, p, l, c, m, -, rfl⟩ | ⟨hne, l, c, m, rfl⟩
    · cases hpend
      exact ⟨rfl, rfl, rfl, rfl, rfl, hd, rfl, rfl⟩
    · cases res with
      | ok p => exact ⟨rfl, rfl, rfl, rfl, rfl, rfl, rfl, rfl, rfl⟩
      | malformed => exact ⟨rfl, rfl, rfl, rfl, rfl, rfl, rfl, rfl⟩
      | crcMismatch x y => exact ⟨rfl, rfl, rfl, rfl, rfl, rfl, rfl, rfl⟩
      | pending => exact absurd rfl hne

end Sys2Proof.Machine
end

section
/-! PROOFS. Each command on its own (R172 to R176, R178): what a dispatched wire command does, one equation for each,
and which step touches the stop signal. -/

namespace Sys2Proof.Machine

/-- `GETVALUES` raises the overflows of the telemetry record and hands over its encoding (R172). -/
theorem exec_getvalues (tail : List Byte) (s : State) :
    exec (.getvalues tail) s = .next (handReply (encodeTelem s.telem).bytes false
      (raiseAll (overflowEvents .telem (encodeTelem s.telem)) s)) := rfl

/-- `POLL` raises the overflows of the poll record and hands over its encoding (R173). -/
theorem exec_poll (tail : List Byte) (s : State) :
    exec (.poll tail) s = .next (handReply (encodePoll s.poll).bytes true
      (raiseAll (overflowEvents .poll (encodePoll s.poll)) s)) := rfl

/-- `CHGSTATE` is recorded (R174). -/
theorem exec_chgstate (tail : List Byte) (s : State) :
    exec (.chgstate tail) s = .next (dropFrame (.knownNoReply .chgstate) s) := rfl

/-- `LCMDEBUG` is recorded (R175). -/
theorem exec_lcmdebug (tail : List Byte) (s : State) :
    exec (.lcmdebug tail) s = .next (dropFrame (.knownNoReply .lcmdebug) s) := rfl

/-- `UNKNOWN` is recorded with its payload (R176). -/
theorem exec_unknown (p : List Byte) (s : State) :
    exec (.unknown p) s = .next (dropFrame (.unknownCommand p) s) := rfl

/-- An event without a flag leaves `STATUS` as it is (R22, R191). -/
theorem setFlag_of_flag_eq_none {e : Event} (x : BitVec 4) (h : e.flag = none) : setFlag x e = x := by
  simp [setFlag, Event.statusMask, h]

/-- Dropping a frame with an event that has no flag (R197, R201). -/
theorem dropFrame_of_flag_eq_none {e : Event} (s : State) (h : e.flag = none) :
    dropFrame e s = { s with ev := s.ev ++ [e], ds := .loopTop } := by
  simp only [dropFrame, raise, setFlag_of_flag_eq_none _ h]

/-- Settles O32: each hands over its record's encoding after raising the overflows of that encoding. -/
theorem answeredCommandsPrepareTheReply : Obligations.AnsweredCommandsPrepareTheReply := by
  intro tail s
  constructor
  · rw [exec_getvalues, encodeTelem, raiseAll_overflowEvents]
    rfl
  · rw [exec_poll, encodePoll, raiseAll_overflowEvents]
    rfl

/-- Settles O33: the event of a recognised command has no flag. -/
theorem recognisedCommandsAreOnlyRecorded : Obligations.RecognisedCommandsAreOnlyRecorded := by
  intro tail s
  rw [exec_chgstate, exec_lcmdebug, dropFrame_of_flag_eq_none s rfl, dropFrame_of_flag_eq_none s rfl]
  exact ⟨rfl, rfl⟩

/-- A payload is `UNKNOWN` on this hardware if it begins like no known command (R71). -/
theorem classify_eq_unknown {p : List Byte} (hget : p[0]? ≠ some 0x04)
    (happ : ¬(p[0]? = some 0x24 ∧ p[1]? = some 0x65 ∧
      (p[2]? = some 0x18 ∨ p[2]? = some 0x1C ∨ p[2]? = some 0x63))) : classify p = .unknown p :=
  (classifyWith_eq_unknown_iff .byPrefix p).2 ((not_isKnownCommand_byPrefix_iff p).2 ⟨hget, happ⟩)

/-- Settles O34: the first three payloads are too short for a three-byte command; the others differ from each in a
matched byte. -/
theorem unknownCommandIsRecordedWithItsPayload : Obligations.UnknownCommandIsRecordedWithItsPayload := by
  refine ⟨exec_unknown, fun p hp => ?_, fun x hx => ?_, fun y tail hy => ?_⟩
  · simp only [List.mem_cons, List.not_mem_nil, or_false] at hp
    rcases hp with rfl | rfl | rfl <;> rfl
  · exact classify_eq_unknown (by simp) (by simpa using hx)
  · exact classify_eq_unknown (by simp) fun ⟨_, h, _⟩ => hy (Option.some.inj h)

/-- No effect withdraws the stop signal (R24, R178). -/
theorem Effect.stop_of_stop {s t : State} {a : Action} (h : Effect s a t) (hs : s.stop = true) :
    t.stop = true := by
  cases h with
  | setstop => rfl
  | _ => simpa using hs

/-- Settles O39: `SETSTOP` is the assignment, and every step has an effect that keeps the signal. -/
theorem setstopLatchesTheStopSignal : Obligations.SetstopLatchesTheStopSignal := by
  refine ⟨fun _ => rfl, fun s t h hs => ?_⟩
  obtain ⟨a, turns, -, heff⟩ := step_effect h
  exact heff.stop_of_stop hs

end Sys2Proof.Machine
end

section
/-! PROOFS. One request from the first byte of its frame to the end of its service (R170, R177, R181): the frame is
read, its payload dispatched, and the reply sent if the command has one. -/

namespace Sys2Proof.Machine

/-- A frame is five bytes longer than its payload (R60, R149). -/
theorem reframe_length {p f : List Byte} (h : reframe p = some f) : f.length = p.length + 5 := by
  obtain ⟨-, rfl⟩ := (frameWith_eq_some_iff _ _ _).1 h
  simp

/-- A good frame in front of a stream is accepted, and what follows it is the remainder (R142, R153). -/
theorem deframe_reframe_append {p f : List Byte} (rest : List Byte) (h : reframe p = some f) :
    deframe (f ++ rest) = (.ok p, rest) := by
  obtain ⟨hp, rfl⟩ := (frameWith_eq_some_iff _ _ _).1 h
  have hlen : p.length = (BitVec.ofNat 8 p.length).toNat := by rw [BitVec.toNat_ofNat]; omega
  obtain ⟨hcomplete, -⟩ := deframeFollowsTheSixSteps
  have hjudged := hcomplete [] _ p ((crc16 p >>> 8).setWidth 8) ((crc16 p).setWidth 8) 0x03 rest (by simp) hlen
  rw [halves_append] at hjudged
  simpa using hjudged

/-- Whenever the turn is the engine's and a reply awaits, the step sends its frame (R177). -/
theorem step_of_responding {s : State} {turns : List Action} {g : List Byte} (ht : s.EngineTurn turns)
    (hh : s.halted = false) (hd : s.ds = .responding) (hg : reframe s.txPayload = some g) :
    step s = .next { s with agenda := turns, txq := s.txq ++ g, ds := .loopTop } := by
  have hturn := engTurn_of_responding (s := { s with agenda := turns }) hh hd
  rw [step_of_engineTurn ht, hturn]
  exact respondStep_of_reframe hg

/-- Settles O35: a payload of at most 255 bytes has a frame, and the step sends it. -/
theorem respondAppendsOneWholeFrame : Obligations.RespondAppendsOneWholeFrame := by
  intro s turns ht hh hd hlen
  obtain ⟨g, hg⟩ := exists_reframe_eq_some hlen
  exact ⟨g, hg, reframe_length hg, step_of_responding ht hh hd hg⟩

/-- One step more than a run that answers is the step from where it ended. -/
theorem run_succ_of_run {s t : State} {n : Nat} (h : Host.Core.run core n s = .next t) :
    Host.Core.run core (n + 1) s = step t := by
  induction n generalizing s with
  | zero =>
    obtain rfl : s = t := Host.Outcome.next.inj h
    cases hstep : step s with
    | next u => exact run_succ_of_step 0 hstep
    | fault r | refused r => simp [Host.Core.run, core, hstep]
  | succ n ih =>
    cases hstep : step s with
    | next u =>
      rw [run_succ_of_step _ hstep] at h ⊢
      exact ih h
    | fault r | refused r => simp [Host.Core.run, core, hstep] at h

/-- An idle engine with no other agent's turn to come and the frame of `p` in front of `rest` in `RXQ`. -/
structure AwaitsRequest (s : State) (p rest : List Byte) : Prop where
  noTurns : s.agenda = []
  running : s.halted = false
  awaits : s.ds = .awaitingFrame
  hunts : s.rxPhase = .hunt
  request : ∃ f, reframe p = some f ∧ s.rxq = f ++ rest

/-- How far the request that stood before the engine at `s` is served at `t`: it has been read and nothing behind it,
`sent` has gone out, and the sequencer is at `ds`; the records are as they were. -/
structure Serving (s : State) (rest sent : List Byte) (ds : Seq) (t : State) : Prop where
  noTurns : t.agenda = []
  running : t.halted = false
  hunts : t.rxPhase = .hunt
  consumed : t.rxq = rest
  sent_eq : t.txq = s.txq ++ sent
  ds_eq : t.ds = ds
  telem : t.telem = s.telem
  poll : t.poll = s.poll

section
variable {s t : State} {p rest : List Byte}

/-- A frame that is dropped is served, with nothing sent (R201). -/
theorem Serving.dropFrame {sent : List Byte} {ds : Seq} (h : Serving s rest sent ds t) (e : Event) :
    Serving s rest sent .loopTop (dropFrame e t) :=
  { h with ds_eq := rfl }

/-- A reply that is handed to the framer awaits `Respond` (R172, R173). -/
theorem Serving.handReply {sent : List Byte} {ds : Seq} (h : Serving s rest sent ds t) (es : List Event)
    (payload : List Byte) (fi : Bool) :
    Serving s rest sent .responding (handReply payload fi (raiseAll es t)) := by
  rw [raiseAll_eq]
  exact { h with ds_eq := rfl }

/-- `Respond` completes the service (R177). -/
theorem Serving.step_responding {g : List Byte} (h : Serving s rest [] .responding t)
    (hg : reframe t.txPayload = some g) : ∃ u, step t = .next u ∧ Serving s rest g .loopTop u := by
  refine ⟨_, step_of_responding (.inl ⟨h.noTurns, rfl⟩) h.running h.ds_eq hg, ?_⟩
  have hsent := h.sent_eq
  rw [List.append_nil] at hsent
  exact { h with noTurns := rfl, ds_eq := rfl, sent_eq := congrArg (· ++ g) hsent }

/-- The request is read to its last byte and its payload handed over to the dispatcher (R154, R179). -/
theorem AwaitsRequest.run_read (h : AwaitsRequest s p rest) :
    ∃ d : State, Host.Core.run core (p.length + 5) s = .next d ∧ Serving s rest [] .dispatching d ∧ d.rxResult = p := by
  obtain ⟨f, hf, hq⟩ := h.request
  obtain ⟨n, hn, -, d, hrun, hend⟩ := (HasRead.of_hunt h.hunts).run h.noTurns h.running h.awaits
  simp only [List.nil_append, hq, deframe_reframe_append rest hf, List.length_append, reframe_length hf] at hn hend
  obtain rfl : n = p.length + 5 := by omega
  rcases hend with ⟨hpend, -⟩ | ⟨-, l, c, m, rfl⟩
  · simp at hpend
  · exact ⟨_, hrun, ⟨h.noTurns, h.running, rfl, rfl, (List.append_nil _).symm, rfl, rfl, rfl⟩, rfl⟩

/-- The step after the last byte runs the command of the payload (R180). -/
theorem AwaitsRequest.run_dispatch (h : AwaitsRequest s p rest) :
    ∃ d, Host.Core.run core (p.length + 6) s = exec (classify p) d ∧ Serving s rest [] .dispatching d := by
  obtain ⟨d, hread, hd, rfl⟩ := h.run_read
  refine ⟨{ d with agenda := [] }, ?_, { hd with noTurns := rfl }⟩
  rw [run_succ_of_run hread]
  exact step_of_dispatching (.inl ⟨hd.noTurns, rfl⟩) hd.running hd.ds_eq

/-- A command that is only recorded is served in `len(p) + 6` steps without a reply (R181). -/
theorem AwaitsRequest.served_of_drop (h : AwaitsRequest s p rest) {e : Event}
    (hexec : ∀ d, exec (classify p) d = .next (dropFrame e d)) :
    ∃ t, Host.Core.run core (p.length + 6) s = .next t ∧ Serving s rest [] .loopTop t := by
  obtain ⟨d, hrun, hd⟩ := h.run_dispatch
  exact ⟨_, hrun.trans (hexec d), hd.dropFrame e⟩

/-- A command that hands over the reply `payload` is served in `len(p) + 7` steps by one frame (R181). -/
theorem AwaitsRequest.served_of_reply (h : AwaitsRequest s p rest) {payload : List Byte} {fi : Bool}
    {es : List Event} (hlen : payload.length ≤ 255)
    (hexec : ∀ d : State, d.telem = s.telem → d.poll = s.poll →
      exec (classify p) d = .next (handReply payload fi (raiseAll es d))) :
    ∃ t g, Host.Core.run core (p.length + 7) s = .next t ∧ reframe payload = some g ∧
      Serving s rest g .loopTop t := by
  obtain ⟨d, hrun, hd⟩ := h.run_dispatch
  obtain ⟨g, hg⟩ := exists_reframe_eq_some hlen
  obtain ⟨t, hstep, ht⟩ := (hd.handReply es payload fi).step_responding hg
  have hdispatched := hrun.trans (hexec d hd.telem hd.poll)
  exact ⟨t, g, (run_succ_of_run hdispatched).trans hstep, hg, ht⟩

/-- `GETVALUES` is served by the telemetry (R172, R181). -/
theorem AwaitsRequest.served_of_getvalues (h : AwaitsRequest s p rest) {tail : List Byte}
    (hc : classify p = .getvalues tail) :
    ∃ t g, Host.Core.run core (p.length + 7) s = .next t ∧ reframe (encodeTelem s.telem).bytes = some g ∧
      Serving s rest g .loopTop t :=
  h.served_of_reply (by rw [encodeTelem_length]; decide)
    fun d ht _ => by rw [hc, exec_getvalues, ht]

/-- `POLL` is served by the poll record (R173, R181). -/
theorem AwaitsRequest.served_of_poll (h : AwaitsRequest s p rest) {tail : List Byte}
    (hc : classify p = .poll tail) :
    ∃ t g, Host.Core.run core (p.length + 7) s = .next t ∧ reframe (encodePoll s.poll).bytes = some g ∧
      Serving s rest g .loopTop t :=
  h.served_of_reply (by rw [encodePoll_length]; decide)
    fun d _ hp => by rw [hc, exec_poll, hp]

end

/-- A payload that is neither `GETVALUES` nor `POLL` is only recorded (R174 to R176). -/
theorem exec_classify_of_unanswered {p : List Byte}
    (h : ∀ tail, classify p ≠ .getvalues tail ∧ classify p ≠ .poll tail) :
    ∃ e, ∀ s, exec (classify p) s = .next (dropFrame e s) := by
  by_cases hk : isKnownCommand .byPrefix p = true
  · rcases (isKnownCommand_byPrefix_iff p).1 hk with ⟨tail, rfl⟩ | ⟨tail, rfl⟩ | ⟨tail, rfl⟩ | ⟨tail, rfl⟩
    · exact absurd rfl (h tail).1
    · exact absurd rfl (h tail).2
    · exact ⟨_, exec_chgstate tail⟩
    · exact ⟨_, exec_lcmdebug tail⟩
  · have hc : classify p = .unknown p := (classifyWith_eq_unknown_iff .byPrefix p).2 hk
    rw [hc]
    exact ⟨_, exec_unknown p⟩

/-- Settles O41: the request is served according to its command, by one reply or by none. -/
theorem oneReplyPerAnsweredRequest : Obligations.OneReplyPerAnsweredRequest := by
  intro s p f rest hs hh hd hp hf hq
  have hreq : AwaitsRequest s p rest := ⟨hs, hh, hd, hp, f, hf, hq⟩
  refine ⟨fun tail hc => ?_, fun tail hc => ?_, fun hnone => ?_⟩
  · obtain ⟨t, g, hrun, hg, ht⟩ := hreq.served_of_getvalues hc
    exact ⟨t, g, hrun, ht.consumed, ht.ds_eq, hg, ht.sent_eq⟩
  · obtain ⟨t, g, hrun, hg, ht⟩ := hreq.served_of_poll hc
    exact ⟨t, g, hrun, ht.consumed, ht.ds_eq, hg, ht.sent_eq⟩
  · obtain ⟨e, he⟩ := exec_classify_of_unanswered hnone
    obtain ⟨t, hrun, ht⟩ := hreq.served_of_drop he
    exact ⟨t, hrun, ht.consumed, ht.ds_eq, by rw [ht.sent_eq, List.append_nil]⟩

/-- Settles O40: the six bytes are the frame of the payload `04`, which is `GETVALUES`. -/
theorem getvaluesRequestIsAnsweredByTheSnapshot : Obligations.GetvaluesRequestIsAnsweredByTheSnapshot := by
  intro s hs hh hd hp hq
  obtain ⟨-, -, -, hframe⟩ := reframeDeliversTheFrame
  have hreq : AwaitsRequest s [0x04] [] := ⟨hs, hh, hd, hp, _, hframe, hq⟩
  obtain ⟨t, g, hrun, hg, ht⟩ := hreq.served_of_getvalues (tail := []) rfl
  have hdeframe := deframe_reframe_append [] hg
  rw [List.append_nil] at hdeframe
  exact ⟨t, g, hrun, ht.sent_eq, hdeframe, by rw [reframe_length hg, encodeTelem_length], ht.consumed, ht.ds_eq,
    ht.hunts, ht.telem⟩

end Sys2Proof.Machine
end

section
/-! PROOFS. `LinkFail` (R204): what it discards and what survives it. -/

namespace Sys2Proof.Machine

/-- The turn of a failing link (R204). -/
theorem step_of_linkFail {s : State} {rest : List Action} (h : s.agenda = .linkFail :: rest) :
    step s = .next (linkFailStep { s with agenda := rest }) :=
  step_of_agenda h

/-- `TransportError` has no flag, so `STATUS` survives the raise (R22, R204). -/
theorem linkFailStep_status_eq_self (s : State) : (linkFailStep s).status = s.status := by
  rw [linkFailStep_status, setFlag_of_flag_eq_none _ rfl]

/-- Settles O45: the raise and the discarded part of the session element by element, then the frame. -/
theorem linkFailDiscardsTheSession : Obligations.LinkFailDiscardsTheSession := by
  intro s rest h
  refine ⟨_, step_of_linkFail h, linkFailStep_ev _, linkFailStep_status_eq_self _, linkFailStep_rxPhase _,
    linkFailStep_rxLen _, linkFailStep_rxCnt _, linkFailStep_ds _, linkFailStep_rxq _, ?frame⟩
  case frame =>
    simp only [linkFailStep_txq, linkFailStep_telem, linkFailStep_poll, linkFailStep_cfgFiEn, linkFailStep_stop,
      linkFailStep_halted, linkFailStep_portOut, linkFailStep_linkOut, linkFailStep_agenda, and_self]

end Sys2Proof.Machine
end
